-- ==== Sys2Proof/Word.lean ====
section
/-! DEFINITION. The widths of 00_scope.md R11 and R12: every value of the block is an unsigned bit vector. -/

namespace Sys2Proof

/-- A byte of the stream, of PBUF or of a message; also the 8-bit discriminant (R11). -/
abbrev Byte := BitVec 8

/-- `u32` of R12: the checksum, the CRC state, a counter, a CSR word. -/
abbrev U32 := BitVec 32

/-- `u64` of R12: the frame length and the payload counter. -/
abbrev U64 := BitVec 64

end Sys2Proof
end

