-- ==== Sys2Proof/Config.lean ====
section
/-! DEFINITION. The parameters of 00_scope.md R7 to R10 and the one function the spec leaves uninterpreted. -/

namespace Sys2Proof

/-- PAYLOAD_CODEC (R8): the byte-exact default or the uninterpreted one. -/
inductive Codec where
  | jsonStrict
  | external
deriving DecidableEq, Repr

/-- The parameters an implementation fixes (R7 to R9). State holds them so that every statement is about every
value of them; no step changes them (log 4, DESIGN CHOICE, safe). -/
structure Params where
  /-- PAYLOAD_CAPACITY; `none` is UNBOUNDED (R7). -/
  capacity : Option Nat
  /-- PAYLOAD_CODEC (R8). -/
  codec : Codec
  /-- KEY_TYPE (R9). -/
  keyType : List Byte
  /-- KEY_DATA (R9). -/
  keyData : List Byte
deriving DecidableEq, Repr

/-- The defaults of R7 to R9: UNBOUNDED, JSON_STRICT, "type" (74 79 70 65), "data" (64 61 74 61). -/
def Params.defaults : Params where
  capacity := none
  codec := .jsonStrict
  keyType := [0x74, 0x79, 0x70, 0x65]
  keyData := [0x64, 0x61, 0x74, 0x61]

/-- `Decode` of EXTERNAL(Decode) (42_payload_decoder.md R190): `none` is FAIL. It has no body, so nothing can be
proved of a particular value (log 5, safe). -/
opaque Config.externalDecode : List Byte → Option (Byte × List Byte)

/-- What an index of PBUF holds that nothing was written to since reset (10_state.md R25, 93 I1 "any value"), in the
PBUF contents of number `epoch`, at `index`. It has no body, so no claim can depend on it (log 1, safe). -/
opaque Config.pbufContents (epoch index : Nat) : Byte

/-- CSR_BASE (R10): OPEN, and no rule reads it (log 15, safe). -/
opaque Config.csrBase : Nat

/-- Where the host bus sees the register at offset `off` of the window (R10, 20_memory.md R82). -/
def Config.busAddress (off : Byte) : Nat :=
  Config.csrBase + off.toNat

/-- All that R190 allows to be assumed of EXTERNAL(Decode), for an encoder `enc` of the same codec. It is a
hypothesis of the statements that need it, never a fact of the model. -/
structure Config.ExternalMeets (enc : Byte → List Byte → List Byte) : Prop where
  /-- E1, "Round-trip". -/
  roundTrip : ∀ t d, t.toNat ≤ 2 → Config.externalDecode (enc t d) = some (t, d)
  /-- E2, the payload "????". -/
  malformed : Config.externalDecode [0x3F, 0x3F, 0x3F, 0x3F] = none
  /-- E3, "Unknown discriminant passthrough". -/
  passthrough : Config.externalDecode (enc 200 []) = some (200, [])
  /-- E4, the "Concrete example", data "hello". -/
  hello : Config.externalDecode (enc 0 [0x68, 0x65, 0x6C, 0x6C, 0x6F]) = some (0, [0x68, 0x65, 0x6C, 0x6C, 0x6F])

end Sys2Proof
end

