-- ==== Sys2Proof/Syntax.lean ====
section
/-! DEFINITION. The operations of spec/opcode_table.json and the encoded things that select them
(30_encoding.md R90, R92, R93, R95). -/

namespace Sys2Proof

/-- The operations an encoding selects (R99), one constructor per mnemonic of the opcode table. The seven
ROUTE.UNRECOGNIZED rows are one operation on `t` in 3 to 255 (R99, R210; log 12). -/
inductive Instr where
  /-- IN.BYTE (R120): `b` is the DATA field. -/
  | inByte (b : Byte)
  /-- IN.END (R127): no operand. -/
  | inEnd
  /-- ROUTE.BLOCK (R211). -/
  | routeBlock
  /-- ROUTE.TRANSACTION (R212). -/
  | routeTransaction
  /-- ROUTE.CONSENSUS (R213). -/
  | routeConsensus
  /-- ROUTE.UNRECOGNIZED (R210): `t` is the raw discriminant. -/
  | routeUnrecognized (t : Byte)
  /-- CSR.R.CTRL (R231). -/
  | csrReadCtrl
  /-- CSR.R.STATUS (R232). -/
  | csrReadStatus
  /-- CSR.R.LEN_LO (R234). -/
  | csrReadLenLo
  /-- CSR.R.LEN_HI (R235). -/
  | csrReadLenHi
  /-- CSR.R.PCNT_LO (R240). -/
  | csrReadPcntLo
  /-- CSR.R.PCNT_HI (R241). -/
  | csrReadPcntHi
  /-- CSR.R.CRC_RX (R242). -/
  | csrReadCrcRx
  /-- CSR.R.CRC_CALC (R243). -/
  | csrReadCrcCalc
  /-- CSR.R.MSG_INFO (R244). -/
  | csrReadMsgInfo
  /-- CSR.R.CNT_OK (R245). -/
  | csrReadCntOk
  /-- CSR.R.CNT_INCOMPLETE (R246). -/
  | csrReadCntIncomplete
  /-- CSR.R.CNT_CHECKSUM (R247). -/
  | csrReadCntChecksum
  /-- CSR.R.CNT_MALFORMED (R248). -/
  | csrReadCntMalformed
  /-- CSR.R.CNT_OVERSIZE (R249). -/
  | csrReadCntOversize
  /-- CSR.W.CTRL (R236): `v` is the data word, CTRLW format (R96). -/
  | csrWriteCtrl (v : U32)
  /-- CSR.ILLEGAL (R233): WE, OFF and SZ of the request; a write's data is discarded. -/
  | csrIllegal (we : Bool) (off : Byte) (size : Nat)
deriving DecidableEq, Repr

/-- A host request in the CSR format (R95): the 9-bit selector WE, OFF; the access width in bytes, of any value
(log 19); and the data word, which only a write uses. -/
structure CsrRequest where
  /-- Bit 8 is WE, bits 7:0 are OFF. -/
  sel : BitVec 9
  /-- SZ, `csr_size`. -/
  size : Nat
  /-- `csr_wdata`. -/
  wdata : U32
deriving DecidableEq, Repr

/-- One encoded thing of the three selecting formats of R90. -/
inductive Encoding where
  /-- SYM (R92): bit 8 is END, bits 7:0 are DATA. -/
  | sym (w : BitVec 9)
  /-- DISC (R93). -/
  | disc (t : Byte)
  /-- CSR (R95). -/
  | csr (r : CsrRequest)
deriving DecidableEq, Repr

end Sys2Proof
end

