-- ==== Sys2Proof/WellFormed.lean ====
section
/-! DEFINITION. Which terms of Instr are operations of the table, and which parameters R9 admits. -/

namespace Sys2Proof

/-- An offset of the fourteen mapped registers: word aligned and at most 0x34 (10_state.md R42). -/
def mappedOffset (off : Byte) : Bool :=
  off.toNat % 4 == 0 && decide (off.toNat ≤ 0x34)

/-- R95: the request is one of the fifteen legal selectors with SZ = 4. -/
def legalRequest (we : Bool) (off : Byte) (size : Nat) : Bool :=
  size == 4 && (if we then off == 0 else mappedOffset off)

/-- The operand ranges of the table: ROUTE.UNRECOGNIZED takes 3 to 255 (R210), CSR.ILLEGAL every request that is
not legal (R233). -/
def Instr.wellFormed : Instr → Bool
  | .routeUnrecognized t => decide (3 ≤ t.toNat)
  | .csrIllegal we off size => !legalRequest we off size
  | .inByte _ | .inEnd | .routeBlock | .routeTransaction | .routeConsensus
  | .csrReadCtrl | .csrReadStatus | .csrReadLenLo | .csrReadLenHi | .csrReadPcntLo | .csrReadPcntHi
  | .csrReadCrcRx | .csrReadCrcCalc | .csrReadMsgInfo | .csrReadCntOk | .csrReadCntIncomplete
  | .csrReadCntChecksum | .csrReadCntMalformed | .csrReadCntOversize | .csrWriteCtrl _ => true

/-- `Instr.wellFormed` as a proposition. -/
abbrev Instr.WellFormed (i : Instr) : Prop := i.wellFormed = true

/-- A byte that may stand in a key (R9, R173): not `"`, not `\`, not below 0x20. -/
def isKeyByte (b : Byte) : Bool :=
  b != 0x22 && b != 0x5C && decide (0x20 ≤ b.toNat)

/-- R9: each key is non-empty and of key bytes, and the two differ. -/
def Params.wellFormed (p : Params) : Bool :=
  !p.keyType.isEmpty && !p.keyData.isEmpty && p.keyType != p.keyData
    && p.keyType.all isKeyByte && p.keyData.all isKeyByte

/-- `Params.wellFormed` as a proposition. -/
abbrev Params.WellFormed (p : Params) : Prop := p.wellFormed = true

end Sys2Proof
end

