-- ==== Sys2Proof/Decode.lean ====
section
/-! DEFINITION. Decoding and encoding of the three selecting formats, 30_encoding.md R92, R93, R95, R99, R100.
Every encoded thing decodes: SYM and DISC have no illegal value, and every other CSR request is CSR.ILLEGAL by
name (R100). -/

namespace Sys2Proof

/-- SYM (R92): END selects IN.END, whose DATA is ignored, or IN.BYTE with operand DATA. -/
def decodeSym (w : BitVec 9) : Instr :=
  if w.getLsbD 8 then .inEnd else .inByte (w.extractLsb' 0 8)

/-- DISC (R93). -/
def decodeDisc (t : Byte) : Instr :=
  if t = 0x00#8 then .routeBlock
  else if t = 0x01#8 then .routeTransaction
  else if t = 0x02#8 then .routeConsensus
  else .routeUnrecognized t

/-- The fourteen reads by offset (R95, 10_state.md R42). -/
def readRows : List (Byte × Instr) :=
  [(0x00, .csrReadCtrl), (0x04, .csrReadStatus), (0x08, .csrReadLenLo), (0x0C, .csrReadLenHi),
   (0x10, .csrReadPcntLo), (0x14, .csrReadPcntHi), (0x18, .csrReadCrcRx), (0x1C, .csrReadCrcCalc),
   (0x20, .csrReadMsgInfo), (0x24, .csrReadCntOk), (0x28, .csrReadCntIncomplete), (0x2C, .csrReadCntChecksum),
   (0x30, .csrReadCntMalformed), (0x34, .csrReadCntOversize)]

/-- The register a read selects by its offset; none where the offset is unmapped. -/
def decodeRead (off : Byte) : Option Instr :=
  (readRows.find? fun r => r.1 == off).map (·.2)

/-- CSR (R95, R230): the fifteen legal selectors with SZ = 4, and CSR.ILLEGAL for every other request. -/
def decodeCsr (r : CsrRequest) : Instr :=
  let we := r.sel.getLsbD 8
  let off := r.sel.extractLsb' 0 8
  if r.size = 4 then
    if we then (if off = 0x00 then .csrWriteCtrl r.wdata else .csrIllegal we off r.size)
    else (decodeRead off).getD (.csrIllegal we off r.size)
  else .csrIllegal we off r.size

/-- The decoder of the three formats (R99). -/
def decode : Encoding → Instr
  | .sym w => decodeSym w
  | .disc t => decodeDisc t
  | .csr r => decodeCsr r

/-- A CSR request by its fields WE, OFF, SZ and data (R95). -/
def csrRequest (we : Bool) (off : Byte) (size : Nat) (wdata : U32) : CsrRequest :=
  ⟨BitVec.ofBool we ++ off, size, wdata⟩

/-- A legal read of the register at `off`; a read has no data word. -/
def encodeRead (off : Byte) : Encoding :=
  .csr (csrRequest false off 4 0)

/-- The encoded form of each operation, from the formats R92, R93, R95; ignored bits are written 0. -/
def encode : Instr → Encoding
  | .inByte b => .sym (0#1 ++ b)
  | .inEnd => .sym 0x100
  | .routeBlock => .disc 0x00
  | .routeTransaction => .disc 0x01
  | .routeConsensus => .disc 0x02
  | .routeUnrecognized t => .disc t
  | .csrReadCtrl => encodeRead 0x00
  | .csrReadStatus => encodeRead 0x04
  | .csrReadLenLo => encodeRead 0x08
  | .csrReadLenHi => encodeRead 0x0C
  | .csrReadPcntLo => encodeRead 0x10
  | .csrReadPcntHi => encodeRead 0x14
  | .csrReadCrcRx => encodeRead 0x18
  | .csrReadCrcCalc => encodeRead 0x1C
  | .csrReadMsgInfo => encodeRead 0x20
  | .csrReadCntOk => encodeRead 0x24
  | .csrReadCntIncomplete => encodeRead 0x28
  | .csrReadCntChecksum => encodeRead 0x2C
  | .csrReadCntMalformed => encodeRead 0x30
  | .csrReadCntOversize => encodeRead 0x34
  | .csrWriteCtrl v => .csr (csrRequest true 0x00 4 v)
  | .csrIllegal we off size => .csr (csrRequest we off size 0)

/-- `e` with the bits its format ignores written 0: DATA of IN.END (R92), the data word of every request but a
legal CTRL write (R95, R233). -/
def Encoding.canonical : Encoding → Encoding
  | .sym w => if w.getLsbD 8 then .sym 0x100 else .sym w
  | .disc t => .disc t
  | .csr r => if r.size = 4 ∧ r.sel = 0x100 then .csr r else .csr { r with wdata := 0 }

/-- Some row CSR.R.* or CSR.W.CTRL of the opcode table has this selector. -/
def isLegalSelector (sel : BitVec 9) : Bool :=
  legalRequest (sel.getLsbD 8) (sel.extractLsb' 0 8) 4

/-- The encoded thing that the word `w` of `nbits` bits of the opcode table stands for. The table numbers an 8-bit
row from DISC and a 9-bit row (two bytes) from SYM or CSR alike; where both match, the row that fixes more bits is
taken, and a CSR row stands for SZ = 4 and data 0 (log 8, DESIGN CHOICE). -/
def tableEncoding (nbits w : Nat) : Option Encoding :=
  if nbits = 8 then
    if w < 2 ^ 8 then some (.disc (BitVec.ofNat 8 w)) else none
  else if nbits = 9 ∨ nbits = 16 then
    if w < 2 ^ 9 then
      let sel := BitVec.ofNat 9 w
      some (if isLegalSelector sel then .csr ⟨sel, 4, 0⟩ else .sym sel)
    else none
  else none

/-- The instruction the decoder reads from a word of the opcode table; `none` where no row has that many bits. -/
def decodeTableWord (nbits w : Nat) : Option Instr :=
  (tableEncoding nbits w).map decode

end Sys2Proof
end

