-- ==== Sys2Proof/Machine/Codec.lean ====
section
/-! DEFINITION. The payload decoder: JSON_STRICT (42_payload_decoder.md R171 to R188), the choice of codec (R189,
R190), and the canonical encoder (R193), which is a test helper and no operation of the block. A parse position is
the list of bytes not yet read, so `i = len(P)` of R188 is the empty list. -/

namespace Sys2Proof.Machine

/-- `WS` (R172). -/
def isWs (b : Byte) : Bool :=
  b == 0x20 || b == 0x09 || b == 0x0A || b == 0x0D

/-- A decimal digit (R177). -/
def isDigit (b : Byte) : Bool :=
  decide (0x30 ≤ b.toNat) && decide (b.toNat ≤ 0x39)

/-- R188 SkipWS. -/
def skipWs : List Byte → List Byte
  | [] => []
  | b :: rest => if isWs b then skipWs rest else b :: rest

/-- R188 Expect. -/
def expectByte (c : Byte) : List Byte → Option (List Byte)
  | [] => none
  | b :: rest => if b = c then some rest else none

/-- R188 ScanString after its opening quote: the body and what follows the closing quote. -/
def scanBody : List Byte → Option (List Byte × List Byte)
  | [] => none
  | b :: rest =>
    if b = 0x22 then some ([], rest)
    else if b = 0x5C ∨ b.toNat < 0x20 then none
    else (scanBody rest).map fun r => (b :: r.1, r.2)

/-- R188 ScanString. -/
def scanString (p : List Byte) : Option (List Byte × List Byte) :=
  (expectByte 0x22 p).bind scanBody

/-- The digit loop of R188 ParseUint8, computed without bound (R180). -/
def scanDigits (v : Nat) : List Byte → Nat × List Byte
  | [] => (v, [])
  | b :: rest => if isDigit b then scanDigits (v * 10 + (b.toNat - 0x30)) rest else (v, b :: rest)

/-- The next unread byte is a digit. -/
def startsWithDigit : List Byte → Bool
  | [] => false
  | b :: _ => isDigit b

/-- R188 ParseUint8 (R177 to R180). -/
def parseUint8 : List Byte → Option (Byte × List Byte)
  | [] => none
  | b :: rest =>
    if !isDigit b then none
    else if b = 0x30 then
      if startsWithDigit rest then none else some (0, rest)
    else
      let r := scanDigits 0 (b :: rest)
      if r.1 > 255 then none else some (BitVec.ofNat 8 r.1, r.2)

/-- The value of a base64 alphabet byte (R182). -/
def b64Value (b : Byte) : Option (BitVec 6) :=
  let n := b.toNat
  if 0x41 ≤ n ∧ n ≤ 0x5A then some (BitVec.ofNat 6 (n - 0x41))
  else if 0x61 ≤ n ∧ n ≤ 0x7A then some (BitVec.ofNat 6 (n - 0x61 + 26))
  else if 0x30 ≤ n ∧ n ≤ 0x39 then some (BitVec.ofNat 6 (n - 0x30 + 52))
  else if n = 0x2B then some 62
  else if n = 0x2F then some 63
  else none

/-- The 24-bit word of a group (R183, R184). -/
def b64Word (v0 v1 v2 v3 : BitVec 6) : BitVec 24 :=
  v0 ++ v1 ++ v2 ++ v3

/-- The bytes of the group `b0 b1 b2 b3` (R182 to R184); `isLast` allows the padding byte `=` (0x3D). -/
def b64Group (isLast : Bool) (b0 b1 b2 b3 : Byte) : Option (List Byte) :=
  match b64Value b0, b64Value b1, b64Value b2, b64Value b3 with
  | some v0, some v1, some v2, some v3 =>
    let w := b64Word v0 v1 v2 v3
    some [w.extractLsb' 16 8, w.extractLsb' 8 8, w.extractLsb' 0 8]
  | some v0, some v1, some v2, none =>
    let w := b64Word v0 v1 v2 0
    if isLast && b3 == 0x3D then some [w.extractLsb' 16 8, w.extractLsb' 8 8] else none
  | some v0, some v1, none, none =>
    let w := b64Word v0 v1 0 0
    if isLast && b2 == 0x3D && b3 == 0x3D then some [w.extractLsb' 16 8] else none
  | _, _, _, _ => none

/-- R188 B64Decode (R182 to R185). -/
def b64Decode : List Byte → Option (List Byte)
  | [] => some []
  | b0 :: b1 :: b2 :: b3 :: rest =>
    match b64Group rest.isEmpty b0 b1 b2 b3, b64Decode rest with
    | some g, some d => some (g ++ d)
    | _, _ => none
  | _ => none

/-- R188 ParseBase64 (R181). -/
def parseBase64 (p : List Byte) : Option (List Byte × List Byte) :=
  (scanString p).bind fun r => (b64Decode r.1).map fun d => (d, r.2)

/-- `have_t`, `t`, `have_d`, `d` of R188. -/
structure Members where
  /-- `t`, once the `type` member was read. -/
  t : Option Byte
  /-- `d`, once the `data` member was read. -/
  d : Option (List Byte)
deriving DecidableEq, Repr

/-- The value of the member with key `key` (R175): a key that names neither field, or a field twice, fails. -/
def parseValue (k : Params) (key : List Byte) (m : Members) (p : List Byte) : Option (Members × List Byte) :=
  if key = k.keyType ∧ m.t = none then (parseUint8 p).map fun r => ({ m with t := some r.1 }, r.2)
  else if key = k.keyData ∧ m.d = none then (parseBase64 p).map fun r => ({ m with d := some r.1 }, r.2)
  else none

/-- One pass of R188's loop up to the second SkipWS: white space, a key, `:`, a value, white space. -/
def parseMember (k : Params) (m : Members) (p : List Byte) : Option (Members × List Byte) :=
  (scanString (skipWs p)).bind fun key =>
    (expectByte 0x3A (skipWs key.2)).bind fun q =>
      (parseValue k key.1 m (skipWs q)).map fun r => (r.1, skipWs r.2)

/-- The two fields, once both were read. -/
def Members.both (m : Members) : Option (Byte × List Byte) :=
  m.t.bind fun t => m.d.map fun d => (t, d)

/-- R188 PayloadDecode_JSON_STRICT. -/
def decodeJson (k : Params) (p : List Byte) : Option (Byte × List Byte) :=
  (expectByte 0x7B (skipWs p)).bind fun p1 =>
    (parseMember k ⟨none, none⟩ p1).bind fun r1 =>
      (expectByte 0x2C r1.2).bind fun p2 =>
        (parseMember k r1.1 p2).bind fun r2 =>
          (expectByte 0x7D r2.2).bind fun p3 =>
            if skipWs p3 = [] then r2.1.both else none

/-- PayloadDecode of R189: the codec the parameters name. -/
def payloadDecode (k : Params) (p : List Byte) : Option (Byte × List Byte) :=
  match k.codec with
  | .jsonStrict => decodeJson k p
  | .external => Config.externalDecode p

/-- The alphabet byte of a value (R182). -/
def b64Char (v : BitVec 6) : Byte :=
  let n := v.toNat
  if n < 26 then BitVec.ofNat 8 (n + 0x41)
  else if n < 52 then BitVec.ofNat 8 (n - 26 + 0x61)
  else if n < 62 then BitVec.ofNat 8 (n - 52 + 0x30)
  else if n = 62 then 0x2B
  else 0x2F

/-- The four characters of a 24-bit word. -/
def b64Chars (w : BitVec 24) : List Byte :=
  [b64Char (w.extractLsb' 18 6), b64Char (w.extractLsb' 12 6), b64Char (w.extractLsb' 6 6), b64Char (w.extractLsb' 0 6)]

/-- B64Encode of R193: `=` padding and zero pad bits. -/
def b64Encode : List Byte → List Byte
  | [] => []
  | [a] => (b64Chars (a ++ 0#16)).take 2 ++ [0x3D, 0x3D]
  | [a, b] => (b64Chars (a ++ b ++ 0#8)).take 3 ++ [0x3D]
  | a :: b :: c :: rest => b64Chars (a ++ b ++ c) ++ b64Encode rest

/-- A decimal digit's ASCII code. -/
def digitChar (n : Nat) : Byte := BitVec.ofNat 8 (0x30 + n)

/-- `Dec(t)` of R193: decimal digits without leading zeros. -/
def decDigits (t : Byte) : List Byte :=
  let n := t.toNat
  if n < 10 then [digitChar n]
  else if n < 100 then [digitChar (n / 10), digitChar (n % 10)]
  else [digitChar (n / 100), digitChar (n / 10 % 10), digitChar (n % 10)]

/-- A string token: the body between quotes. -/
def quoted (body : List Byte) : List Byte := 0x22 :: body ++ [0x22]

/-- R193 CanonEncode. -/
def canonEncode (k : Params) (t : Byte) (d : List Byte) : List Byte :=
  [0x7B] ++ quoted k.keyType ++ [0x3A] ++ decDigits t ++ [0x2C] ++ quoted k.keyData ++ [0x3A]
    ++ quoted (b64Encode d) ++ [0x7D]

end Sys2Proof.Machine
end

