-- ==== Sys2Proof/Machine/Crc.lean ====
section
/-! DEFINITION. CRC-32 (IEEE), 41_checksum_verifier.md R150 and R151. -/

namespace Sys2Proof.Machine

/-- One shift of the reflected register: the body of R150's loop. -/
def crcShift (c : U32) : U32 :=
  if c.getLsbD 0 then (c >>> 1) ^^^ 0xEDB88320#32 else c >>> 1

/-- R150: CrcStep, the byte XORed in and eight shifts, bit 0 of the byte first. -/
def crcStep (c : U32) (b : Byte) : U32 :=
  Nat.repeat crcShift 8 (c ^^^ b.setWidth 32)

/-- The running state after the bytes `bs` from the state `c`. -/
def crcRun (c : U32) (bs : List Byte) : U32 :=
  bs.foldl crcStep c

/-- R151: CRC32 of a byte sequence. -/
def crc32 (bs : List Byte) : U32 :=
  crcRun 0xFFFFFFFF#32 bs ^^^ 0xFFFFFFFF#32

end Sys2Proof.Machine
end

