-- ==== Sys2Proof/Machine/State.lean ====
section
/-! DEFINITION. The state of LIAN-FDC (10_state.md), the agents around it (00_scope.md R6), and why a step stops. -/

namespace Sys2Proof.Machine

/-- `phase` (10_state.md R21). The codes 6 and 7 are never taken and have no constructor (log 13, safe). -/
inductive Phase where
  | len
  | payload
  | csum
  | eval
  | deliver
  | error
deriving DecidableEq, Repr

/-- `err_code` (10_state.md R32, 30_encoding.md R97). The codes 5 to 7 have no constructor (log 13). -/
inductive ErrCode where
  | noError
  | incompleteFrame
  | checksumMismatch
  | malformedPayload
  | lengthExceedsCapacity
deriving DecidableEq, Repr

/-- `err_seg` (10_state.md R33). The value 3 has no constructor (log 13). -/
inductive Segment where
  | length
  | payload
  | checksum
deriving DecidableEq, Repr

/-- The route and the port index (30_encoding.md R94, 43_router.md R210). -/
inductive Route where
  | block
  | transaction
  | consensus
  | unrecognized
deriving DecidableEq, Repr

/-- The frame state (R22, R23, R24, R26, R27, R28): what FrameRestart clears beside `phase` (R130). -/
structure FrameRegs where
  /-- `len_cnt` (R22). -/
  lenCnt : BitVec 4
  /-- `len_reg` (R23). -/
  lenReg : U64
  /-- `pay_cnt` (R24). -/
  payCnt : U64
  /-- `csum_cnt` (R26). -/
  csumCnt : BitVec 3
  /-- `csum_reg` (R27). -/
  csumReg : U32
  /-- `crc_reg`, before the final inversion (R28). -/
  crcReg : U32
deriving DecidableEq, Repr

/-- The error record (R32, R33, R34). -/
structure ErrRecord where
  /-- `err_code` (R32). -/
  code : ErrCode
  /-- `err_seg` (R33). -/
  seg : Segment
  /-- `err_boundary` (R34). -/
  boundary : Bool
deriving DecidableEq, Repr

/-- The five event counters (R40), modulo 2^32 (00_scope.md R18). -/
structure Counters where
  /-- `cnt_ok`. -/
  ok : U32
  /-- `cnt_incomplete`. -/
  incomplete : U32
  /-- `cnt_checksum`. -/
  checksum : U32
  /-- `cnt_malformed`. -/
  malformed : U32
  /-- `cnt_oversize`. -/
  oversize : U32
deriving DecidableEq, Repr

/-- What the host sees of its last access (R53, 44_host_csr.md R230, R233): `csr_err`, and `csr_rdata` where the
spec gives it a value, which it does for a read only (log 7). -/
structure CsrResponse where
  /-- `csr_err`. -/
  err : Bool
  /-- `csr_rdata` of a read. -/
  rdata : Option U32
deriving DecidableEq, Repr

/-- A message handed to the sink: the port and the pair of 43_router.md R214. -/
structure Message where
  /-- The port OUT0 to OUT3. -/
  port : Route
  /-- `out_type`. -/
  disc : Byte
  /-- The data bytes. -/
  data : List Byte
deriving DecidableEq, Repr

/-- The bytes written into PBUF since reset: pairs of an index and a byte, indices strictly rising. What PBUF holds
at any other index is a free value (`Memory.byteAt`, log 1). -/
abbrev Memory := List Host.Cell

/-- Which agent moves next (00_scope.md R6). -/
inductive Turn where
  /-- The source offers its next symbol. -/
  | source
  /-- The block takes its internal step EVAL. -/
  | block
  /-- The sink takes the pending message if it is ready on its port. -/
  | sink
  /-- The host makes its next CSR access. -/
  | host
  /-- The sink drives outR_ready of the four ports; bit R is port R. -/
  | ready (lines : BitVec 4)
  /-- The host drives rst. -/
  | rst (level : Bool)
deriving DecidableEq, Repr

/-- The other agents' side (R56): the model's own fields, none of them state of the block (log 2). -/
structure Env where
  /-- Symbols the source has still to transfer, in stream order (R51, 20_memory.md R71). -/
  stream : List (BitVec 9)
  /-- Accesses the host has still to make, in order. -/
  requests : List CsrRequest
  /-- outR_ready; bit R is port R (R52). -/
  sinkReady : BitVec 4
  /-- The messages the sink has taken, oldest first. -/
  received : List Message
  /-- Who moves next; when nobody is named the block moves (log 3). -/
  turns : List Turn
deriving DecidableEq, Repr

/-- Why the machine stops. It is not reached from a state that meets the invariants of R39. -/
inductive Fault where
  /-- Raised by IN.BYTE in phase PAYLOAD when `pay_cnt` is no index of PBUF, and by EVAL when some index below
  `len_reg` is none (R25: indices 0 to PAYLOAD_CAPACITY-1). Safe: the spec's runs never get there (log 11). -/
  | pbufOutOfRange
deriving DecidableEq, Repr

/-- Why an instruction has no meaning. -/
inductive Refusal where
  /-- Raised by an arm of exec for an instruction not modelled yet. Safe. No arm raises it: every operation of the
  table has its meaning. -/
  | notModelled (mnemonic : String)
deriving DecidableEq, Repr

/-- The machine: the block's state in the order of 10_state.md, its parameters, and the agents around it. -/
structure State where
  /-- PAYLOAD_CAPACITY, PAYLOAD_CODEC, KEY_TYPE, KEY_DATA (00_scope.md R7 to R9; log 4). -/
  params : Params
  /-- The reset line (R55, 70_reset_and_hazards.md R290; log 9). -/
  rst : Bool
  /-- `phase` (R21). -/
  phase : Phase
  /-- `len_cnt` to `crc_reg` (R22 to R24, R26 to R28). -/
  frame : FrameRegs
  /-- `pbuf` (R25): what was written since reset. -/
  pbuf : Memory
  /-- Which unspecified contents PBUF has had since reset: the model's own counter, advanced by every reset step and
  read by nothing but the free value (log 1). -/
  pbufEpoch : Nat
  /-- `msg_type` (R29). -/
  msgType : Byte
  /-- `msg_route` (R30). -/
  msgRoute : Route
  /-- `msg_data` (R31). -/
  msgData : List Byte
  /-- `err_code`, `err_seg`, `err_boundary` (R32 to R34). -/
  err : ErrRecord
  /-- `ctrl_en` (R35). -/
  ctrlEn : Bool
  /-- `ctrl_ie` (R36). -/
  ctrlIe : Bool
  /-- The event counters (R40). -/
  cnt : Counters
  /-- The CSR port's last response; `none` before the first access after reset (R53; log 7). -/
  csrResp : Option CsrResponse
  /-- The source, the sink and the host (R56; log 2). -/
  env : Env
deriving DecidableEq, Repr

/-- The frame state at reset and after FrameRestart (R57, R130). -/
def FrameRegs.init : FrameRegs where
  lenCnt := 0
  lenReg := 0
  payCnt := 0
  csumCnt := 0
  csumReg := 0
  crcReg := 0xFFFFFFFF#32

/-- No error: `err_code` NONE, `err_seg` 0, `err_boundary` 0 (R57). -/
def ErrRecord.clear : ErrRecord where
  code := .noError
  seg := .length
  boundary := false

/-- All counters 0 (R57, 44_host_csr.md R239). -/
def Counters.zero : Counters where
  ok := 0
  incomplete := 0
  checksum := 0
  malformed := 0
  oversize := 0

/-- Agents that offer nothing, a sink ready on no port, no turn named (log 2, log 3: DESIGN CHOICE). -/
def Env.idle : Env where
  stream := []
  requests := []
  sinkReady := 0
  received := []
  turns := []

/-- The machine right after reset: the table of R57 with `rst` released, default parameters (R7 to R9), PBUF
unspecified (nothing written; log 1), and idle agents. -/
def State.reset : State where
  params := Params.defaults
  rst := false
  phase := .len
  frame := FrameRegs.init
  pbuf := []
  pbufEpoch := 0
  msgType := 0
  msgRoute := .block
  msgData := []
  err := ErrRecord.clear
  ctrlEn := true
  ctrlIe := false
  cnt := Counters.zero
  csrResp := none
  env := Env.idle

end Sys2Proof.Machine
end

