-- ==== Sys2Proof/Machine/Flags.lean ====
section
/-! DEFINITION. The derived flags and the value of every register as the host reads it
(10_state.md R37, R38, R42 to R50; 44_host_csr.md section 2). -/

namespace Sys2Proof.Machine

/-- The code of a phase (R21). -/
def Phase.bits : Phase → BitVec 3
  | .len => 0
  | .payload => 1
  | .csum => 2
  | .eval => 3
  | .deliver => 4
  | .error => 5

/-- The code of an error (R32, R97). -/
def ErrCode.bits : ErrCode → BitVec 3
  | .noError => 0
  | .incompleteFrame => 1
  | .checksumMismatch => 2
  | .malformedPayload => 3
  | .lengthExceedsCapacity => 4

/-- The code of a segment (R33). -/
def Segment.bits : Segment → BitVec 2
  | .length => 0
  | .payload => 1
  | .checksum => 2

/-- The code of a route, also its port's index (R94). -/
def Route.bits : Route → BitVec 2
  | .block => 0
  | .transaction => 1
  | .consensus => 2
  | .unrecognized => 3

/-- The phases in which input is taken (R37). -/
def Phase.acceptsInput : Phase → Bool
  | .len | .payload | .csum => true
  | .eval | .deliver | .error => false

/-- `in_ready` (R37). -/
def State.inReady (s : State) : Bool :=
  !s.rst && s.ctrlEn && s.phase.acceptsInput

/-- `irq`, a level (R38). -/
def State.irq (s : State) : Bool :=
  s.ctrlIe && s.err.code != .noError

/-- The computed checksum of the bytes consumed so far (R28, R48). -/
def FrameRegs.crcCalc (f : FrameRegs) : U32 :=
  f.crcReg ^^^ 0xFFFFFFFF#32

/-- CTRL as read (R43, R231): the action bits read 0. -/
def State.ctrlWord (s : State) : U32 :=
  0#22 ++ 0#1 ++ 0#1 ++ 0#6 ++ BitVec.ofBool s.ctrlIe ++ BitVec.ofBool s.ctrlEn

/-- STATUS (R44, R232). -/
def State.statusWord (s : State) : U32 :=
  0#12 ++ BitVec.ofBool s.inReady ++ s.frame.csumCnt ++ s.frame.lenCnt ++ BitVec.ofBool s.irq
    ++ BitVec.ofBool s.err.boundary ++ s.err.seg.bits ++ 0#1 ++ s.err.code.bits ++ 0#1 ++ s.phase.bits

/-- MSG_INFO (R49, R244). -/
def State.msgInfoWord (s : State) : U32 :=
  0#22 ++ s.msgRoute.bits ++ s.msgType

/-- The low word of a 64-bit register (20_memory.md R78). -/
def lowWord (v : U64) : U32 := v.extractLsb' 0 32

/-- The high word of a 64-bit register (20_memory.md R78). -/
def highWord (v : U64) : U32 := v.extractLsb' 32 32

end Sys2Proof.Machine
end

