-- ==== Sys2Proof/Machine/Operands.lean ====
section
/-! DEFINITION. Operand assembly (30_encoding.md R96, R98) and the big-endian encodings of 00_scope.md R13. -/

namespace Sys2Proof.Machine

/-- `be64` (R13): byte 0 is bits 63:56, byte 7 bits 7:0. -/
def be64 (v : U64) : List Byte :=
  [v.extractLsb' 56 8, v.extractLsb' 48 8, v.extractLsb' 40 8, v.extractLsb' 32 8,
   v.extractLsb' 24 8, v.extractLsb' 16 8, v.extractLsb' 8 8, v.extractLsb' 0 8]

/-- `be32` (R13). -/
def be32 (v : U32) : List Byte :=
  [v.extractLsb' 24 8, v.extractLsb' 16 8, v.extractLsb' 8 8, v.extractLsb' 0 8]

/-- One length byte shifted in below the earlier ones (40_frame_reader.md R121, R98). -/
def shiftInLen (l : U64) (b : Byte) : U64 :=
  (l <<< 8) ||| b.setWidth 64

/-- One checksum byte shifted in below the earlier ones (40_frame_reader.md R126, R98). -/
def shiftInCsum (c : U32) (b : Byte) : U32 :=
  (c <<< 8) ||| b.setWidth 32

/-- CTRLW bit 0 (R96): the new `ctrl_en`. -/
def ctrlwEn (v : U32) : Bool := v.getLsbD 0

/-- CTRLW bit 1 (R96): the new `ctrl_ie`. -/
def ctrlwIe (v : U32) : Bool := v.getLsbD 1

/-- CTRLW bit 8 (R96): the CLEAR request. -/
def ctrlwClear (v : U32) : Bool := v.getLsbD 8

/-- CTRLW bit 9 (R96): the CNT_CLR request. -/
def ctrlwCntClr (v : U32) : Bool := v.getLsbD 9

end Sys2Proof.Machine
end

