-- ==== Sys2Proof/Machine/Ops.lean ====
section
/-! DEFINITION. The named operations over PBUF and the state: memory, FrameRestart (40_frame_reader.md R130), error
entry (60_exceptions.md R270), the return from an error (44_host_csr.md R238), and the updates of the readers. -/

namespace Sys2Proof.Machine

/-! ## PBUF (20_memory.md R72) -/

/-- The canonical form: indices strictly rising. An unlisted index was not written, so no entry can equal it (log 1). -/
abbrev Memory.wf (m : Memory) : Prop := m.Pairwise fun x y => x.1 < y.1

/-- The byte at index `i`, if one was written. -/
def Memory.read (m : Memory) (i : Nat) : Option Byte :=
  match m with
  | [] => none
  | c :: rest => if c.1 = i then some c.2 else Memory.read rest i

/-- `MemWrite(PBUF, i, 1, b)` (R15). -/
def Memory.write (m : Memory) (i : Nat) (b : Byte) : Memory :=
  match m with
  | [] => [(i, b)]
  | c :: rest =>
    if i < c.1 then (i, b) :: c :: rest
    else if i = c.1 then (i, b) :: rest
    else c :: Memory.write rest i b

/-- The `n` bytes from index `i`, if all were written. -/
def Memory.readBytes (m : Memory) (i : Nat) : Nat → Option (List Byte)
  | 0 => some []
  | n + 1 =>
    match m.read i with
    | none => none
    | some b => (Memory.readBytes m (i + 1) n).map (b :: ·)

/-- PBUF holding the bytes `bs` from index `i` on, and nothing else. -/
def Memory.ofBytes (i : Nat) : List Byte → Memory
  | [] => []
  | b :: rest => (i, b) :: Memory.ofBytes (i + 1) rest

/-- What PBUF holds at index `i`: the byte written there, else an unspecified one, which is a free value (10_state.md
R25, 93 I1; log 1). -/
def Memory.byteAt (m : Memory) (epoch i : Nat) : Byte :=
  (m.read i).getD (Config.pbufContents epoch i)

/-- `MemRead(PBUF, i, n)` (R15). -/
def Memory.bytesAt (m : Memory) (epoch i : Nat) : Nat → List Byte
  | 0 => []
  | n + 1 => m.byteAt epoch i :: Memory.bytesAt m epoch (i + 1) n

/-- `i` is an index of PBUF (10_state.md R25). -/
def State.pbufIndex (s : State) (i : Nat) : Bool :=
  match s.params.capacity with
  | none => true
  | some c => decide (i < c)

/-- `PAYLOAD_CAPACITY ≠ UNBOUNDED and len_reg > PAYLOAD_CAPACITY` (40_frame_reader.md R122). -/
def State.overCapacity (s : State) : Bool :=
  match s.params.capacity with
  | none => false
  | some c => decide (c < s.frame.lenReg.toNat)

/-! ## Frame restart, error entry and return -/

/-- FrameRestart (R130). It leaves PBUF, the message, the error record, CTRL and the counters alone. -/
def State.frameRestart (s : State) : State :=
  { s with phase := .len, frame := FrameRegs.init }

/-- The counter an error increments, modulo 2^32 (R270, 00_scope.md R18). -/
def Counters.count (c : Counters) : ErrCode → Counters
  | .noError => c
  | .incompleteFrame => { c with incomplete := c.incomplete + 1#32 }
  | .checksumMismatch => { c with checksum := c.checksum + 1#32 }
  | .malformedPayload => { c with malformed := c.malformed + 1#32 }
  | .lengthExceedsCapacity => { c with oversize := c.oversize + 1#32 }

/-- Error entry, `raise E(seg, boundary)` (R270): the record, the counter, phase ERROR, nothing else. -/
def State.raise (s : State) (e : ErrCode) (seg : Segment) (boundary : Bool) : State :=
  { s with err := ⟨e, seg, boundary⟩, cnt := s.cnt.count e, phase := .error }

/-- `raise E()`: segment and boundary 0 when not given (R270). -/
def State.raisePlain (s : State) (e : ErrCode) : State :=
  s.raise e .length false

/-- The CLEAR action, the return from an error (R238, R275). -/
def State.clear (s : State) : State :=
  { s.frameRestart with err := ErrRecord.clear, msgData := [] }

/-- The CNT_CLR action (R239). -/
def State.counterClear (s : State) : State :=
  { s with cnt := Counters.zero }

/-- CTRL.EN and CTRL.IE written (R236, R237). -/
def State.setCtrl (s : State) (en ie : Bool) : State :=
  { s with ctrlEn := en, ctrlIe := ie }

/-- `phase <- P` (00_scope.md R15). -/
def State.setPhase (s : State) (p : Phase) : State :=
  { s with phase := p }

/-! ## The reader's updates -/

/-- The registers after a length byte (R121). -/
def State.acceptLen (s : State) (b : Byte) : State :=
  { s with frame := { s.frame with
      lenReg := shiftInLen s.frame.lenReg b
      crcReg := crcStep s.frame.crcReg b
      lenCnt := s.frame.lenCnt + 1#4 } }

/-- PBUF and the registers after a payload byte (R124). -/
def State.acceptPayload (s : State) (b : Byte) : State :=
  { s with
    pbuf := s.pbuf.write s.frame.payCnt.toNat b
    frame := { s.frame with
      crcReg := crcStep s.frame.crcReg b
      payCnt := s.frame.payCnt + 1#64 } }

/-- The registers after a checksum byte (R126); the CRC never covers one (R153). -/
def State.acceptCsum (s : State) (b : Byte) : State :=
  { s with frame := { s.frame with
      csumReg := shiftInCsum s.frame.csumReg b
      csumCnt := s.frame.csumCnt + 1#3 } }

/-! ## The message and the ports -/

/-- What a successful decode writes beside the route (42_payload_decoder.md R189). -/
def State.latchMessage (s : State) (t : Byte) (d : List Byte) : State :=
  { s with msgType := t, msgData := d, phase := .deliver }

/-- `msg_route <- r` (43_router.md R210 to R213). -/
def State.setRoute (s : State) (r : Route) : State :=
  { s with msgRoute := r }

/-- `emit Message(msg_type, msg_data) on port msg_route` (00_scope.md R15, 43_router.md R214). -/
def State.emit (s : State) : State :=
  { s with env := { s.env with received := s.env.received ++ [⟨s.msgRoute, s.msgType, s.msgData⟩] } }

/-- `cnt_ok <- cnt_ok + 1`, modulo 2^32 (R214). -/
def State.countOk (s : State) : State :=
  { s with cnt := { s.cnt with ok := s.cnt.ok + 1#32 } }

/-- The response of the CSR port (44_host_csr.md R230, R233). -/
def State.respond (s : State) (r : CsrResponse) : State :=
  { s with csrResp := some r }

/-- Every element of the block at its reset value with `rst` at `level` (70_reset_and_hazards.md R290). PBUF's
contents are unspecified anew: nothing is written, and the free value is another one (log 1). The parameters are no
state (R56) and the other agents are not reset. -/
def State.blockReset (s : State) (level : Bool) : State :=
  { State.reset with params := s.params, rst := level, env := s.env, pbufEpoch := s.pbufEpoch + 1 }

end Sys2Proof.Machine
end

