-- ==== Sys2Proof/Machine/Csr.lean ====
section
/-! DEFINITION. The host's CSR operations (44_host_csr.md R230 to R250). Each is one atomic step, enabled in every
phase while `rst` is 0. While `rst` is 1 a request gets no response and the host waits (R290; log 6). -/

namespace Sys2Proof.Machine

/-- An access the CSR port answers: nothing happens while `rst` is 1 (R290, 93 I18; log 6). -/
def csrAccess (s : State) (answered : State) : Host.Outcome State Fault Refusal :=
  if s.rst then .next s else .next answered

/-- A legal read: `csr_rdata <- v; csr_err <- 0` (R230); no other state changes (20_memory.md R81). -/
def csrRead (v : U32) (s : State) : Host.Outcome State Fault Refusal :=
  csrAccess s (s.respond ⟨false, some v⟩)

/-- CSR.R.CTRL (R231). -/
def execCsrReadCtrl (s : State) : Host.Outcome State Fault Refusal :=
  csrRead s.ctrlWord s

/-- CSR.R.STATUS (R232). -/
def execCsrReadStatus (s : State) : Host.Outcome State Fault Refusal :=
  csrRead s.statusWord s

/-- CSR.R.LEN_LO (R234). -/
def execCsrReadLenLo (s : State) : Host.Outcome State Fault Refusal :=
  csrRead (lowWord s.frame.lenReg) s

/-- CSR.R.LEN_HI (R235). -/
def execCsrReadLenHi (s : State) : Host.Outcome State Fault Refusal :=
  csrRead (highWord s.frame.lenReg) s

/-- CSR.R.PCNT_LO (R240). -/
def execCsrReadPcntLo (s : State) : Host.Outcome State Fault Refusal :=
  csrRead (lowWord s.frame.payCnt) s

/-- CSR.R.PCNT_HI (R241). -/
def execCsrReadPcntHi (s : State) : Host.Outcome State Fault Refusal :=
  csrRead (highWord s.frame.payCnt) s

/-- CSR.R.CRC_RX (R242). -/
def execCsrReadCrcRx (s : State) : Host.Outcome State Fault Refusal :=
  csrRead s.frame.csumReg s

/-- CSR.R.CRC_CALC (R243). -/
def execCsrReadCrcCalc (s : State) : Host.Outcome State Fault Refusal :=
  csrRead s.frame.crcCalc s

/-- CSR.R.MSG_INFO (R244). -/
def execCsrReadMsgInfo (s : State) : Host.Outcome State Fault Refusal :=
  csrRead s.msgInfoWord s

/-- CSR.R.CNT_OK (R245). -/
def execCsrReadCntOk (s : State) : Host.Outcome State Fault Refusal :=
  csrRead s.cnt.ok s

/-- CSR.R.CNT_INCOMPLETE (R246). -/
def execCsrReadCntIncomplete (s : State) : Host.Outcome State Fault Refusal :=
  csrRead s.cnt.incomplete s

/-- CSR.R.CNT_CHECKSUM (R247). -/
def execCsrReadCntChecksum (s : State) : Host.Outcome State Fault Refusal :=
  csrRead s.cnt.checksum s

/-- CSR.R.CNT_MALFORMED (R248). -/
def execCsrReadCntMalformed (s : State) : Host.Outcome State Fault Refusal :=
  csrRead s.cnt.malformed s

/-- CSR.R.CNT_OVERSIZE (R249). -/
def execCsrReadCntOversize (s : State) : Host.Outcome State Fault Refusal :=
  csrRead s.cnt.oversize s

/-- The pseudocode of CSR.W.CTRL (R236): EN and IE, then CLEAR, then CNT_CLR, in that order. -/
def State.writeCtrl (s : State) (v : U32) : State :=
  let s1 := s.setCtrl (ctrlwEn v) (ctrlwIe v)
  let s2 := if ctrlwClear v then s1.clear else s1
  if ctrlwCntClr v then s2.counterClear else s2

/-- CSR.W.CTRL (R236): the write and its response, `csr_err` 0; a write has no read data (log 7). -/
def execCsrWriteCtrl (v : U32) (s : State) : Host.Outcome State Fault Refusal :=
  csrAccess s ((s.writeCtrl v).respond ⟨false, none⟩)

/-- CSR.ILLEGAL (R233): a bus error, `csr_rdata` 0 for a read, and no state changes. The response is the same
whatever made the request illegal. -/
def execCsrIllegal (we : Bool) (_off : Byte) (_size : Nat) (s : State) : Host.Outcome State Fault Refusal :=
  csrAccess s (s.respond ⟨true, if we then none else some 0⟩)

end Sys2Proof.Machine
end

