-- ==== Sys2Proof/Machine/Reader.lean ====
section
/-! DEFINITION. The frame reader: IN.BYTE and IN.END (40_frame_reader.md R120 to R131). -/

namespace Sys2Proof.Machine

/-- LengthComplete (R122, R123), on the state whose `len_reg` is the new one. -/
def State.lengthComplete (s : State) : State :=
  if s.overCapacity then s.raisePlain .lengthExceedsCapacity
  else if s.frame.lenReg = 0#64 then s.setPhase .csum
  else s.setPhase .payload

/-- ByteLen (R121). -/
def byteLen (b : Byte) (s : State) : State :=
  let s' := s.acceptLen b
  if s'.frame.lenCnt = 8#4 then s'.lengthComplete else s'

/-- BytePayload (R124, R125). An index that PBUF does not have is a fault no run reaches (log 11). -/
def bytePayload (b : Byte) (s : State) : Host.Outcome State Fault Refusal :=
  if s.pbufIndex s.frame.payCnt.toNat then
    let s' := s.acceptPayload b
    .next (if s'.frame.payCnt = s'.frame.lenReg then s'.setPhase .csum else s')
  else .fault .pbufOutOfRange

/-- ByteCsum (R126). -/
def byteCsum (b : Byte) (s : State) : State :=
  let s' := s.acceptCsum b
  if s'.frame.csumCnt = 4#3 then s'.setPhase .eval else s'

/-- IN.BYTE (R120). Where `in_ready` is 0 the symbol is held and no state changes (R131). -/
def execInByte (b : Byte) (s : State) : Host.Outcome State Fault Refusal :=
  if s.inReady then
    match s.phase with
    | .len => .next (byteLen b s)
    | .payload => bytePayload b s
    | .csum => .next (byteCsum b s)
    | .eval | .deliver | .error => .next s
  else .next s

/-- IN.END (R127 to R129): IncompleteFrame with the segment that was cut short; held where `in_ready` is 0. -/
def execInEnd (s : State) : Host.Outcome State Fault Refusal :=
  if s.inReady then
    match s.phase with
    | .len => .next (s.raise .incompleteFrame .length (s.frame.lenCnt == 0#4))
    | .payload => .next (s.raise .incompleteFrame .payload false)
    | .csum => .next (s.raise .incompleteFrame .checksum false)
    | .eval | .deliver | .error => .next s
  else .next s

end Sys2Proof.Machine
end

