-- ==== Sys2Proof/Machine/Router.lean ====
section
/-! DEFINITION. The discriminator and the router (43_router.md R210 to R219). A ROUTE.* operation is selected by
the decoded discriminant inside the EVAL step (30_encoding.md R93, R99; log 12). -/

namespace Sys2Proof.Machine

/-- Classify (R210). -/
def classify (t : Byte) : Route :=
  if t = 0x00#8 then .block
  else if t = 0x01#8 then .transaction
  else if t = 0x02#8 then .consensus
  else .unrecognized

/-- ROUTE.BLOCK (R211). -/
def execRouteBlock (s : State) : Host.Outcome State Fault Refusal :=
  .next (s.setRoute .block)

/-- ROUTE.TRANSACTION (R212). -/
def execRouteTransaction (s : State) : Host.Outcome State Fault Refusal :=
  .next (s.setRoute .transaction)

/-- ROUTE.CONSENSUS (R213). -/
def execRouteConsensus (s : State) : Host.Outcome State Fault Refusal :=
  .next (s.setRoute .consensus)

/-- ROUTE.UNRECOGNIZED (R210): route 3, and the raw value carried in `msg_type`. -/
def execRouteUnrecognized (t : Byte) (s : State) : Host.Outcome State Fault Refusal :=
  .next { s.setRoute .unrecognized with msgType := t }

/-- outR_ready of the port of route `r` (10_state.md R52). -/
def State.sinkReadyOn (s : State) (r : Route) : Bool :=
  s.env.sinkReady.getLsbD r.bits.toNat

/-- The pseudocode of DELIVER (R214). -/
def State.deliver (s : State) : State :=
  s.emit.countOk.frameRestart

/-- The DELIVER step (R214): taken in phase DELIVER when the sink is ready on the message's port, else a hold
(R217). -/
def deliverStep (s : State) : Host.Outcome State Fault Refusal :=
  if s.phase = .deliver ∧ s.sinkReadyOn s.msgRoute then .next s.deliver else .next s

end Sys2Proof.Machine
end

