-- ==== Sys2Proof/Machine/Dispatch.lean ====
section
/-! DEFINITION. One arm for each operation of the opcode table, each one call of its meaning. -/

namespace Sys2Proof.Machine

def exec (i : Instr) (s : State) : Host.Outcome State Fault Refusal :=
  match i with
  -- SYM
  | .inByte b => Sys2Proof.Machine.execInByte b s
  | .inEnd => Sys2Proof.Machine.execInEnd s
  -- DISC
  | .routeBlock => Sys2Proof.Machine.execRouteBlock s
  | .routeTransaction => Sys2Proof.Machine.execRouteTransaction s
  | .routeConsensus => Sys2Proof.Machine.execRouteConsensus s
  | .routeUnrecognized t => Sys2Proof.Machine.execRouteUnrecognized t s
  -- CSR
  | .csrReadCtrl => Sys2Proof.Machine.execCsrReadCtrl s
  | .csrReadStatus => Sys2Proof.Machine.execCsrReadStatus s
  | .csrReadLenLo => Sys2Proof.Machine.execCsrReadLenLo s
  | .csrReadLenHi => Sys2Proof.Machine.execCsrReadLenHi s
  | .csrReadPcntLo => Sys2Proof.Machine.execCsrReadPcntLo s
  | .csrReadPcntHi => Sys2Proof.Machine.execCsrReadPcntHi s
  | .csrReadCrcRx => Sys2Proof.Machine.execCsrReadCrcRx s
  | .csrReadCrcCalc => Sys2Proof.Machine.execCsrReadCrcCalc s
  | .csrReadMsgInfo => Sys2Proof.Machine.execCsrReadMsgInfo s
  | .csrReadCntOk => Sys2Proof.Machine.execCsrReadCntOk s
  | .csrReadCntIncomplete => Sys2Proof.Machine.execCsrReadCntIncomplete s
  | .csrReadCntChecksum => Sys2Proof.Machine.execCsrReadCntChecksum s
  | .csrReadCntMalformed => Sys2Proof.Machine.execCsrReadCntMalformed s
  | .csrReadCntOversize => Sys2Proof.Machine.execCsrReadCntOversize s
  | .csrWriteCtrl v => Sys2Proof.Machine.execCsrWriteCtrl v s
  | .csrIllegal we off size => Sys2Proof.Machine.execCsrIllegal we off size s

end Sys2Proof.Machine
end

