-- ==== Sys2Proof/Machine/Eval.lean ====
section
/-! DEFINITION. The block's internal step EVAL (41_checksum_verifier.md R152, 42_payload_decoder.md R189). No
encoding selects it; the ROUTE.* operation it runs is the one the decoded discriminant selects. -/

namespace Sys2Proof.Machine

/-- `P = MemRead(PBUF, 0, len_reg)` (42_payload_decoder.md R170). -/
def State.payloadBytes (s : State) : List Byte :=
  s.pbuf.bytesAt s.pbufEpoch 0 s.frame.lenReg.toNat

/-- DecodeAndRoute (R189): MalformedPayload, or the message latched and the operation its discriminant selects. An
index that PBUF does not have is a fault no run reaches (log 11). -/
def decodeAndRoute (s : State) : Host.Outcome State Fault Refusal :=
  if s.overCapacity then .fault .pbufOutOfRange
  else
    match payloadDecode s.params s.payloadBytes with
    | none => .next (s.raisePlain .malformedPayload)
    | some (t, d) => exec (decode (.disc t)) (s.latchMessage t d)

/-- EVAL (R152). In any other phase the step is not enabled and nothing changes. -/
def evalStep (s : State) : Host.Outcome State Fault Refusal :=
  if s.phase = .eval then
    if s.frame.crcCalc = s.frame.csumReg then decodeAndRoute s
    else .next (s.raisePlain .checksumMismatch)
  else .next s

end Sys2Proof.Machine
end

