-- ==== Sys2Proof/Machine/Fetch.lean ====
section
/-! DEFINITION. Where a step takes its next operation from: the agents around the block (00_scope.md R6), and how an
operation is offered to the block (log 2, log 3, log 10). -/

namespace Sys2Proof.Machine

/-- The turn `t` is over: the turns still to come are `ts`. -/
def State.setTurns (s : State) (ts : List Turn) : State :=
  { s with env := { s.env with turns := ts } }

/-- The symbols still to come are `ws`. -/
def State.setStream (s : State) (ws : List (BitVec 9)) : State :=
  { s with env := { s.env with stream := ws } }

/-- The requests still to come are `rs`. -/
def State.setRequests (s : State) (rs : List CsrRequest) : State :=
  { s with env := { s.env with requests := rs } }

/-- The sink drives its ready lines (10_state.md R52). -/
def State.setReady (s : State) (lines : BitVec 4) : State :=
  { s with env := { s.env with sinkReady := lines } }

/-- The source's turn: the offered symbol is run, and it leaves the stream only where `in_ready` is 1 (10_state.md
R37, R51; 70_reset_and_hazards.md R297). -/
def sourceTurn (s : State) : Host.Outcome State Fault Refusal :=
  match s.env.stream with
  | [] => .next s
  | w :: ws => exec (decode (.sym w)) (if s.inReady then s.setStream ws else s)

/-- The host's turn: the next request is run; it stays with the host while `rst` is 1 (log 6). -/
def hostTurn (s : State) : Host.Outcome State Fault Refusal :=
  match s.env.requests with
  | [] => .next s
  | r :: rs => exec (decode (.csr r)) (if s.rst then s else s.setRequests rs)

/-- RESET (70_reset_and_hazards.md R290): `rst` driven to 1, and the step that ends it, put every element at its
reset value; driving 0 where `rst` is 0 already changes nothing (log 9). -/
def resetTurn (level : Bool) (s : State) : Host.Outcome State Fault Refusal :=
  if level || s.rst then .next (s.blockReset level) else .next s

/-- One turn of one agent. -/
def runTurn (t : Turn) (s : State) : Host.Outcome State Fault Refusal :=
  match t with
  | .source => sourceTurn s
  | .block => evalStep s
  | .sink => deliverStep s
  | .host => hostTurn s
  | .ready lines => .next (s.setReady lines)
  | .rst level => resetTurn level s

/-- The source offers the symbol `w` next, on the next turn. -/
def State.offerSymbol (s : State) (w : BitVec 9) : State :=
  (s.setStream (w :: s.env.stream)).setTurns (.source :: s.env.turns)

/-- The host makes the request `r` next, on the next turn. -/
def State.offerRequest (s : State) (r : CsrRequest) : State :=
  (s.setRequests (r :: s.env.requests)).setTurns (.host :: s.env.turns)

/-- The frame state once `be64(len p)`, `p` and the right checksum were accepted (40_frame_reader.md R134). -/
def FrameRegs.received (p : List Byte) : FrameRegs where
  lenCnt := 8
  lenReg := BitVec.ofNat 64 p.length
  payCnt := BitVec.ofNat 64 p.length
  csumCnt := 4
  csumReg := crc32 (be64 (BitVec.ofNat 64 p.length) ++ p)
  crcReg := crcRun 0xFFFFFFFF#32 (be64 (BitVec.ofNat 64 p.length) ++ p)

/-- A whole frame with payload `p` was accepted, and the next turn evaluates it. -/
def State.offerFrame (s : State) (p : List Byte) : State :=
  ({ s with phase := .eval, frame := FrameRegs.received p, pbuf := Memory.ofBytes 0 p } : State).setTurns
    (.block :: s.env.turns)

/-- `e` is placed where the next step takes its operation from: a symbol on IN, a request on the CSR port, and a
discriminant in a frame that waits for EVAL, since only a decoded payload holds one (R93; log 10). -/
def State.offer (s : State) (e : Encoding) : State :=
  match e with
  | .sym w => s.offerSymbol w
  | .csr r => s.offerRequest r
  | .disc t => s.offerFrame (canonEncode s.params t [])

end Sys2Proof.Machine
end

