-- ==== Sys2Proof/Machine/Step.lean ====
section
/-! DEFINITION. One atomic step of the block and the agents around it (00_scope.md R5, R6; 20_memory.md R84). -/

namespace Sys2Proof.Machine

/-- The agent named next takes its turn; where nobody is named the block does, so that an enabled EVAL is taken
(70_reset_and_hazards.md R306; log 3). -/
def step (s : State) : Host.Outcome State Fault Refusal :=
  match s.env.turns with
  | [] => runTurn .block s
  | t :: ts => runTurn t (s.setTurns ts)

/-- `s` with the table word's operation placed where the next step takes it from (log 10); `s` itself where the
table has no such word. -/
def State.withFetchWord (s : State) (nbits w : Nat) : State :=
  match tableEncoding nbits w with
  | none => s
  | some e => s.offer e

end Sys2Proof.Machine
end

