-- ==== Sys2Proof/Machine/Grammar.lean ====
section
/-! DEFINITION. The JSON_STRICT grammar as the spec's rules R171 to R187 of 42_payload_decoder.md state it, apart
from the procedure of R188: which byte strings spell the message `(t, d)`. -/

namespace Sys2Proof.Machine

/-- `WS*` (R172). -/
def WsRun (l : List Byte) : Prop :=
  ∀ b ∈ l, b = 0x20 ∨ b = 0x09 ∨ b = 0x0A ∨ b = 0x0D

/-- The usual decimal value (R180). -/
def decimalValue (lit : List Byte) : Nat :=
  lit.foldl (fun v b => v * 10 + (b.toNat - 0x30)) 0

/-- `uint := '0' | nzdigit digit*` (R177, R178), of value `t` (R180). -/
def TypeLiteral (lit : List Byte) (t : Byte) : Prop :=
  lit ≠ [] ∧ (∀ b ∈ lit, 0x30 ≤ b.toNat ∧ b.toNat ≤ 0x39) ∧ (lit = [0x30] ∨ lit.head? ≠ some 0x30)
    ∧ decimalValue lit = t.toNat

/-- The 64 bytes of the base64 alphabet in the order of their values (R182): `A`..`Z`, `a`..`z`, `0`..`9`, `+`,
`/`. -/
def b64Alphabet : List Byte :=
  (List.range 26).map (fun i => BitVec.ofNat 8 (0x41 + i)) ++ (List.range 26).map (fun i => BitVec.ofNat 8 (0x61 + i))
    ++ (List.range 10).map (fun i => BitVec.ofNat 8 (0x30 + i)) ++ [0x2B, 0x2F]

/-- `b` is the alphabet byte of value `v` (R182). -/
def B64Char (b : Byte) (v : Nat) : Prop := b64Alphabet[v]? = some b

/-- Bits 23:16, 15:8 and 7:0 of the 24-bit word of four 6-bit values (R183). -/
def groupBytes (v0 v1 v2 v3 : Nat) : Byte × Byte × Byte :=
  let w := v0 * 2 ^ 18 + v1 * 2 ^ 12 + v2 * 2 ^ 6 + v3
  (BitVec.ofNat 8 (w / 2 ^ 16), BitVec.ofNat 8 (w / 2 ^ 8), BitVec.ofNat 8 w)

/-- Base64 content and the bytes it spells (R182 to R185). -/
inductive Base64Text : List Byte → List Byte → Prop where
  /-- No group. -/
  | empty : Base64Text [] []
  /-- A full group (R183). -/
  | full {b0 b1 b2 b3 : Byte} {v0 v1 v2 v3 : Nat} {rest d : List Byte} :
      B64Char b0 v0 → B64Char b1 v1 → B64Char b2 v2 → B64Char b3 v3 → Base64Text rest d →
      Base64Text (b0 :: b1 :: b2 :: b3 :: rest)
        ((groupBytes v0 v1 v2 v3).1 :: (groupBytes v0 v1 v2 v3).2.1 :: (groupBytes v0 v1 v2 v3).2.2 :: d)
  /-- A last group with one `=` (R184). -/
  | pad1 {b0 b1 b2 : Byte} {v0 v1 v2 : Nat} : B64Char b0 v0 → B64Char b1 v1 → B64Char b2 v2 →
      Base64Text [b0, b1, b2, 0x3D] [(groupBytes v0 v1 v2 0).1, (groupBytes v0 v1 v2 0).2.1]
  /-- A last group with two `=` (R184). -/
  | pad2 {b0 b1 : Byte} {v0 v1 : Nat} : B64Char b0 v0 → B64Char b1 v1 →
      Base64Text [b0, b1, 0x3D, 0x3D] [(groupBytes v0 v1 0 0).1]

/-- `key WS* ':' WS* value` (R171) for the key bytes `key` and the value bytes `value`. -/
def MemberText (key value m : List Byte) : Prop :=
  ∃ w1 w2, WsRun w1 ∧ WsRun w2 ∧ m = quoted key ++ w1 ++ [0x3A] ++ w2 ++ value

/-- The `type` member (R175, R177). -/
def TypeMember (k : Params) (m : List Byte) (t : Byte) : Prop :=
  ∃ lit, TypeLiteral lit t ∧ MemberText k.keyType lit m

/-- The `data` member (R175, R181). -/
def DataMember (k : Params) (m d : List Byte) : Prop :=
  ∃ body, Base64Text body d ∧ MemberText k.keyData (quoted body) m

/-- The top-level shape (R171) around two members. -/
def ObjectText (m1 m2 p : List Byte) : Prop :=
  ∃ w0 w1 w2 w3 w4 w5, WsRun w0 ∧ WsRun w1 ∧ WsRun w2 ∧ WsRun w3 ∧ WsRun w4 ∧ WsRun w5
    ∧ p = w0 ++ [0x7B] ++ w1 ++ m1 ++ w2 ++ [0x2C] ++ w3 ++ m2 ++ w4 ++ [0x7D] ++ w5

/-- `p` is a JSON_STRICT payload that spells the message `(t, d)`: the two members in either order (R171, R175,
R176). -/
def JsonPayload (k : Params) (p : List Byte) (t : Byte) (d : List Byte) : Prop :=
  ∃ mt md, TypeMember k mt t ∧ DataMember k md d ∧ (ObjectText mt md p ∨ ObjectText md mt p)

end Sys2Proof.Machine
end

