-- ==== Sys2Proof/Machine/Ports.lean ====
section
/-! DEFINITION. The boundary signals of 10_state.md R51 to R54, as functions of the state, and the beats that one
DELIVER step is on the ports of an RTL build (R52, 43_router.md R219; log 16). -/

namespace Sys2Proof.Machine

/-- `in_valid` (R51): the source has a symbol to offer. -/
def State.inValid (s : State) : Bool := !s.env.stream.isEmpty

/-- `in_end` of the offered symbol (R51, R92). -/
def State.inEnd (s : State) : Option Bool := s.env.stream.head?.map (·.getLsbD 8)

/-- `in_data` of the offered symbol (R51, R92). -/
def State.inData (s : State) : Option Byte := s.env.stream.head?.map (·.extractLsb' 0 8)

/-- `outR_valid` (R52): the pending message is on the port of its route, and on no port under reset (R290). -/
def State.outValid (s : State) (r : Route) : Bool :=
  !s.rst && s.phase == .deliver && s.msgRoute == r

/-- One beat of the shared output signals (R52). -/
structure Beat where
  /-- The port whose `valid` is 1. -/
  port : Route
  /-- `out_type`. -/
  outType : Byte
  /-- `out_data`. -/
  outData : Byte
  /-- `out_first`. -/
  first : Bool
  /-- `out_last`. -/
  last : Bool
  /-- `out_empty`. -/
  empty : Bool
deriving DecidableEq, Repr

/-- The beats of the bytes `data`; `first` says whether the next beat is the first. -/
def dataBeats (port : Route) (disc : Byte) : Bool → List Byte → List Beat
  | _, [] => []
  | first, b :: rest => ⟨port, disc, b, first, rest.isEmpty, false⟩ :: dataBeats port disc false rest

/-- R52: max(n, 1) beats; a message with no data is one beat with `out_empty` 1 and `out_data` 0. -/
def Message.beats (m : Message) : List Beat :=
  match m.data with
  | [] => [⟨m.port, m.disc, 0, true, true, true⟩]
  | b :: rest => dataBeats m.port m.disc true (b :: rest)

/-- What a sink takes from a run of beats it saw to its last beat: every `out_data` but that of an empty beat
(70_reset_and_hazards.md R298). -/
def beatData (bs : List Beat) : List Byte :=
  (bs.filter fun b => !b.empty).map (·.outData)

end Sys2Proof.Machine
end

