-- ==== Sys2Proof/Machine/Trace.lean ====
section
/-! DEFINITION. The trace syntax of 30_encoding.md R103, its pseudo-operations (R104), and the schedule a trace runs
under: each line waits until its step is enabled, and EVAL runs as soon as it is enabled, before the next line. -/

namespace Sys2Proof.Machine

/-- The names of the mapped registers (10_state.md R42). -/
inductive RegName where
  | ctrl
  | status
  | lenLo
  | lenHi
  | pcntLo
  | pcntHi
  | crcRx
  | crcCalc
  | msgInfo
  | cntOk
  | cntIncomplete
  | cntChecksum
  | cntMalformed
  | cntOversize
deriving DecidableEq, Repr

/-- The offset of a register (R42). -/
def RegName.offset : RegName → Byte
  | .ctrl => 0x00
  | .status => 0x04
  | .lenLo => 0x08
  | .lenHi => 0x0C
  | .pcntLo => 0x10
  | .pcntHi => 0x14
  | .crcRx => 0x18
  | .crcCalc => 0x1C
  | .msgInfo => 0x20
  | .cntOk => 0x24
  | .cntIncomplete => 0x28
  | .cntChecksum => 0x2C
  | .cntMalformed => 0x30
  | .cntOversize => 0x34

/-- A line of a trace (R103). -/
inductive TraceOp where
  /-- `byte 0xHH`. -/
  | byte (b : Byte)
  /-- `end`. -/
  | streamEnd
  /-- `csrr NAME`. -/
  | csrr (r : RegName)
  /-- `csrw NAME, 0xVVVVVVVV`. -/
  | csrw (r : RegName) (v : U32)
  /-- `csrx WE, OFF, SZ`. -/
  | csrx (we : Bool) (off : Byte) (size : Nat)
  /-- `accept`. -/
  | accept
  /-- `reset`: the host pulses `rst`. -/
  | reset
deriving DecidableEq, Repr

/-- The step of the line is enabled (R103; log 18). -/
def TraceOp.enabled (op : TraceOp) (s : State) : Bool :=
  match op with
  | .byte _ | .streamEnd => s.inReady
  | .csrr _ | .csrw _ _ | .csrx _ _ _ => !s.rst
  | .accept => s.phase == .deliver
  | .reset => true

/-- The turns of the line; `accept` makes the sink ready on every port for one delivery (log 18). -/
def TraceOp.turns : TraceOp → List Turn
  | .byte _ | .streamEnd => [.source]
  | .csrr _ | .csrw _ _ | .csrx _ _ _ => [.host]
  | .accept => [.ready 0xF, .sink, .ready 0]
  | .reset => [.rst true, .rst false]

/-- The line's operation offered by its agent, and its turns, to a machine whose agents have nothing else to do. -/
def TraceOp.place (op : TraceOp) (s : State) : State :=
  match op with
  | .byte b => (s.setStream [0#1 ++ b]).setTurns op.turns
  | .streamEnd => (s.setStream [0x100]).setTurns op.turns
  | .csrr r => (s.setRequests [csrRequest false r.offset 4 0]).setTurns op.turns
  | .csrw r v => (s.setRequests [csrRequest true r.offset 4 v]).setTurns op.turns
  | .csrx we off size => (s.setRequests [csrRequest we off size 0]).setTurns op.turns
  | .accept | .reset => s.setTurns op.turns

/-- `n` steps. -/
def runSteps : Nat → State → Host.Outcome State Fault Refusal
  | 0, s => .next s
  | n + 1, s =>
    match step s with
    | .next s' => runSteps n s'
    | .fault r => .fault r
    | .refused r => .refused r

/-- A step with no turn named: EVAL where it is enabled, else nothing (R103). -/
def settle (s : State) : Host.Outcome State Fault Refusal :=
  step (s.setTurns [])

/-- One line (R103): EVAL first where it is enabled, then the line's turns, then the EVAL they may enable. `none`: the
line waits for ever, since nothing but EVAL could have enabled it. -/
def TraceOp.run (op : TraceOp) (s : State) : Option (Host.Outcome State Fault Refusal) :=
  match settle s with
  | .next s' => if op.enabled s' then some (runSteps (op.turns.length + 1) (op.place s')) else none
  | stop => some stop

/-- A trace, in order (R103). -/
def runTrace : List TraceOp → State → Option (Host.Outcome State Fault Refusal)
  | [], s => some (settle s)
  | op :: ops, s =>
    match op.run s with
    | some (.next s') => runTrace ops s'
    | other => other

/-! ## Pseudo-operations (R104) -/

/-- `hex HH HH ...` and `ascii "text"`, both one `byte` for each byte. -/
def traceBytes (bs : List Byte) : List TraceOp := bs.map .byte

/-- `u64be N`. -/
def traceU64be (n : U64) : List TraceOp := traceBytes (be64 n)

/-- `u32be N`. -/
def traceU32be (n : U32) : List TraceOp := traceBytes (be32 n)

/-- The bytes of the frame with payload `p` (R91): length, payload, checksum. -/
def frameBytes (p : List Byte) : List Byte :=
  be64 (BitVec.ofNat 64 p.length) ++ p ++ be32 (crc32 (be64 (BitVec.ofNat 64 p.length) ++ p))

/-- `frame P`. -/
def traceFrame (p : List Byte) : List TraceOp := traceBytes (frameBytes p)

/-- `msg T, D`. -/
def traceMsg (k : Params) (t : Byte) (d : List Byte) : List TraceOp := traceFrame (canonEncode k t d)

/-- `clear`. -/
def traceClear : TraceOp := .csrw .ctrl 0x00000101

/-- `clear_ie`. -/
def traceClearIe : TraceOp := .csrw .ctrl 0x00000103

end Sys2Proof.Machine
end

