-- ==== Sys2Proof/Safety.lean ====
section
/-! DEFINITION. What the claims call a good state and a safe step: the invariants of 10_state.md R39 and
60_exceptions.md R265. -/

namespace Sys2Proof.Machine

/-- The step at `s` answers a next state: no fault and no refusal (R265). -/
def State.StepsOn (s : State) : Prop := ∃ t, step s = .next t

/-- R39, phase LEN. -/
def FrameRegs.InLen (f : FrameRegs) : Prop :=
  f.lenCnt.toNat ≤ 7 ∧ f.payCnt = 0#64 ∧ f.csumCnt = 0#3 ∧ f.csumReg = 0#32

/-- R39, phase PAYLOAD. -/
def FrameRegs.InPayload (f : FrameRegs) : Prop :=
  f.lenCnt = 8#4 ∧ f.payCnt < f.lenReg ∧ f.csumCnt = 0#3

/-- R39, phase CSUM. -/
def FrameRegs.InCsum (f : FrameRegs) : Prop :=
  f.lenCnt = 8#4 ∧ f.payCnt = f.lenReg ∧ f.csumCnt.toNat ≤ 3

/-- R39, phases EVAL and DELIVER. -/
def FrameRegs.Complete (f : FrameRegs) : Prop :=
  f.lenCnt = 8#4 ∧ f.payCnt = f.lenReg ∧ f.csumCnt = 4#3

/-- The frame state of a LENGTH_EXCEEDS_CAPACITY error: the eighth length byte was accepted and nothing after it
(60_exceptions.md R270, R271; log 13: R39's last clause would read `len_cnt` ≤ 7 here, V-RDR-4 shows 8). -/
def FrameRegs.Oversize (f : FrameRegs) : Prop :=
  f.lenCnt = 8#4 ∧ f.payCnt = 0#64 ∧ f.csumCnt = 0#3 ∧ f.csumReg = 0#32

/-- R39: when PAYLOAD_CAPACITY is finite, `len_reg` ≤ PAYLOAD_CAPACITY. -/
def State.FitsCapacity (s : State) : Prop :=
  ∀ c, s.params.capacity = some c → s.frame.lenReg.toNat ≤ c

/-- R39 in phase ERROR: the frame state is that of the phase the error was raised in, and the record agrees with it
(R33, R34). -/
def State.ErrorInv (s : State) : Prop :=
  match s.err.code with
  | .noError => False
  | .incompleteFrame =>
    match s.err.seg with
    | .length => s.frame.InLen ∧ (s.err.boundary = true ↔ s.frame.lenCnt = 0#4)
    | .payload => s.frame.InPayload ∧ s.err.boundary = false ∧ s.FitsCapacity
    | .checksum => s.frame.InCsum ∧ s.err.boundary = false ∧ s.FitsCapacity
  | .checksumMismatch | .malformedPayload =>
    s.frame.Complete ∧ s.err.seg = .length ∧ s.err.boundary = false ∧ s.FitsCapacity
  | .lengthExceedsCapacity =>
    s.frame.Oversize ∧ s.err.seg = .length ∧ s.err.boundary = false
      ∧ ∃ c, s.params.capacity = some c ∧ c < s.frame.lenReg.toNat

/-- R39 by phase; outside ERROR the error record is clear. -/
def State.PhaseInv (s : State) : Prop :=
  match s.phase with
  | .len => s.err = ErrRecord.clear ∧ s.frame.InLen
  | .payload => s.err = ErrRecord.clear ∧ s.frame.InPayload ∧ s.FitsCapacity
  | .csum => s.err = ErrRecord.clear ∧ s.frame.InCsum ∧ s.FitsCapacity
  | .eval | .deliver => s.err = ErrRecord.clear ∧ s.frame.Complete ∧ s.FitsCapacity
  | .error => s.ErrorInv

/-- The length bytes accepted in the current frame, in stream order: `len_reg` was shifted in most significant byte
first (R23), so they are its last `len_cnt` bytes. -/
def FrameRegs.lenBytes (f : FrameRegs) : List Byte :=
  (be64 f.lenReg).drop (8 - f.lenCnt.toNat)

/-- R39: PBUF holds the `pay_cnt` payload bytes accepted, and `crc_reg` is the CRC state after the length bytes and
those. -/
def State.CrcInv (s : State) : Prop :=
  ∃ p, s.pbuf.readBytes 0 s.frame.payCnt.toNat = some p
    ∧ s.frame.crcReg = crcRun 0xFFFFFFFF#32 (s.frame.lenBytes ++ p)

/-- Every index PBUF holds a byte at is one it has (R25). -/
def State.PbufInv (s : State) : Prop :=
  s.pbuf.wf ∧ ∀ i b, s.pbuf.read i = some b → s.pbufIndex i = true

/-- The state while `rst` is 1 (R290): the reset values. -/
def State.ResetHeld (s : State) : Prop :=
  s = { State.reset with params := s.params, rst := true, env := s.env, pbufEpoch := s.pbufEpoch }

/-- The invariants every step keeps: R39, the canonical form of PBUF, `msg_route` the route of `msg_type` (R30),
and the reset values while `rst` is 1 (R290). -/
structure State.Inv (s : State) : Prop where
  /-- R39, phase by phase. -/
  phase : s.PhaseInv
  /-- R39, `crc_reg` and PBUF's contents. -/
  crc : s.CrcInv
  /-- PBUF's form and range. -/
  pbuf : s.PbufInv
  /-- R30, R210. -/
  route : s.msgRoute = classify s.msgType
  /-- R290. -/
  rst : s.rst = true → s.ResetHeld

end Sys2Proof.Machine
end

