-- ==== Sys2Proof/Certificates/Slice0/Obligations.lean ====
section
/-! DEFINITION. The statements for the provers, in the order of the spec's files. A next state is written as a record
of the state before, so each equation says the new values and, by leaving every other field alone, the frame. -/

open Sys2Proof Sys2Proof.Machine

/-! ## Encoding (30_encoding.md) -/

/-- R92, R93, R95, R99: no bit of an operand is dropped; every operation comes back from its encoding. -/
def Obligations.DecodeOfEncodeIsIdentity : Prop :=
  ∀ i : Instr, i.WellFormed → decode (encode i) = i

/-- R92, R95, R100: two encoded things select one operation only where they differ in bits the format ignores. -/
def Obligations.EncodeOfDecodeIsCanonical : Prop :=
  ∀ e : Encoding, encode (decode e) = e.canonical

/-- R100: every SYM word, every DISC value and every CSR request selects an operation of the table. -/
def Obligations.EveryEncodingSelectsAnOperation : Prop :=
  ∀ e : Encoding, (decode e).WellFormed

/-- R92, R93, R95: one word of each kind, written out from its format. -/
def Obligations.WordsOfEachFormatDecode : Prop :=
  decode (.sym 0b001000001#9) = .inByte 0x41
    ∧ decode (.sym 0b111111111#9) = .inEnd
    ∧ decode (.disc 0b00000001#8) = .routeTransaction
    ∧ decode (.disc 0b11001000#8) = .routeUnrecognized 200
    ∧ decode (.csr ⟨0b000000100#9, 4, 0⟩) = .csrReadStatus
    ∧ decode (.csr ⟨0b100000000#9, 4, 0x301⟩) = .csrWriteCtrl 0x301
    ∧ decode (.csr ⟨0b100000100#9, 4, 0⟩) = .csrIllegal true 0x04 4

/-- R95, R230, R233: a request is CSR.ILLEGAL exactly when its size is not 4, its offset is not a multiple of 4 or
lies above 0x34, or it writes any register but CTRL. -/
def Obligations.IllegalRequestsAreThoseOfTheAccessRule : Prop :=
  ∀ (we : Bool) (off : Byte) (size : Nat) (v : U32),
    decode (.csr (csrRequest we off size v)) = .csrIllegal we off size ↔
      size ≠ 4 ∨ off.toNat % 4 ≠ 0 ∨ 0x34 < off.toNat ∨ (we = true ∧ off ≠ 0x00)

/-! ## A step runs what its agent offers (00_scope.md R6) -/

/-- R51, R92: on the source's turn with `in_ready` 1 the step is the decoded symbol's operation, and the symbol has
left the stream. -/
def Obligations.OfferedSymbolRunsItsOperation : Prop :=
  ∀ (s : State) (ts : List Turn) (w : BitVec 9) (ws : List (BitVec 9)),
    s.env.turns = .source :: ts → s.env.stream = w :: ws → s.inReady = true →
      step s = exec (decode (.sym w)) { s with env := { s.env with turns := ts, stream := ws } }

/-- R95, R230: on the host's turn with `rst` 0 the step is the decoded request's operation, and the request has left
the host. -/
def Obligations.HostRequestRunsItsOperation : Prop :=
  ∀ (s : State) (ts : List Turn) (r : CsrRequest) (rs : List CsrRequest),
    s.env.turns = .host :: ts → s.env.requests = r :: rs → s.rst = false →
      step s = exec (decode (.csr r)) { s with env := { s.env with turns := ts, requests := rs } }

/-- R93, R189: on the block's turn, a verified payload that decodes to `(t, d)` runs the operation the discriminant
`t` selects, on the state with the message latched. -/
def Obligations.DecodedDiscriminantRunsItsRoute : Prop :=
  ∀ (s : State) (ts : List Turn) (p : List Byte) (t : Byte) (d : List Byte),
    s.env.turns = .block :: ts → s.phase = .eval → s.frame.crcReg ^^^ 0xFFFFFFFF#32 = s.frame.csumReg →
    (∀ c, s.params.capacity = some c → s.frame.lenReg.toNat ≤ c) →
    s.pbuf.bytesAt s.pbufEpoch 0 s.frame.lenReg.toNat = p → payloadDecode s.params p = some (t, d) →
        step s = exec (decode (.disc t))
          { s with msgType := t, msgData := d, phase := .deliver, env := { s.env with turns := ts } }

/-- R131: in phases EVAL, DELIVER and ERROR, while EN is 0 and while `rst` is 1, the source's turn takes nothing: the
symbol stays offered and nothing else changes. -/
def Obligations.HeldSymbolStaysOffered : Prop :=
  ∀ (s : State) (ts : List Turn), s.env.turns = .source :: ts →
    (s.rst = true ∨ s.ctrlEn = false ∨ s.phase = .eval ∨ s.phase = .deliver ∨ s.phase = .error) →
      step s = .next { s with env := { s.env with turns := ts } }

/-! ## Frame reader (40_frame_reader.md) -/

/-- R74: eight length bytes shifted into a zero `len_reg` give `{l0, ..., l7}`, the first in bits 63:56. -/
def Obligations.LengthBytesAreBigEndian : Prop :=
  ∀ l0 l1 l2 l3 l4 l5 l6 l7 : Byte, ∀ s : State, s.frame.lenReg = 0#64 →
    (((((((((s.acceptLen l0).acceptLen l1).acceptLen l2).acceptLen l3).acceptLen l4).acceptLen l5).acceptLen
      l6).acceptLen l7).frame.lenReg) = l0 ++ l1 ++ l2 ++ l3 ++ l4 ++ l5 ++ l6 ++ l7

/-- R121: a length byte other than the eighth is shifted in, counted and covered by the CRC; nothing else changes. -/
def Obligations.LengthByteIsShiftedIn : Prop :=
  ∀ (s : State) (b : Byte), s.inReady = true → s.phase = .len → s.frame.lenCnt + 1#4 ≠ 8#4 →
    exec (.inByte b) s = .next { s with frame := { s.frame with
      lenReg := (s.frame.lenReg <<< 8) ||| b.setWidth 64
      crcReg := crcStep s.frame.crcReg b
      lenCnt := s.frame.lenCnt + 1#4 } }

/-- R122: the eighth length byte either raises LengthExceedsCapacity, when PAYLOAD_CAPACITY is finite and the new
`len_reg` exceeds it, or moves to CSUM for L = 0 and to PAYLOAD for every other L. -/
def Obligations.EighthLengthByteCompletesLength : Prop :=
  ∀ (s : State) (b : Byte) (f : FrameRegs), s.inReady = true → s.phase = .len → s.frame.lenCnt + 1#4 = 8#4 →
    f = { s.frame with
      lenReg := (s.frame.lenReg <<< 8) ||| b.setWidth 64
      crcReg := crcStep s.frame.crcReg b
      lenCnt := 8#4 } →
    ((∃ c, s.params.capacity = some c ∧ c < f.lenReg.toNat) →
      exec (.inByte b) s = .next { s with
        frame := f
        err := ⟨.lengthExceedsCapacity, .length, false⟩
        cnt := { s.cnt with oversize := s.cnt.oversize + 1#32 }
        phase := .error })
    ∧ ((∀ c, s.params.capacity = some c → f.lenReg.toNat ≤ c) →
      exec (.inByte b) s = .next { s with frame := f, phase := if f.lenReg = 0#64 then .csum else .payload })

/-- R124, R125: a payload byte lands in PBUF at index `pay_cnt` and nowhere else, is covered by the CRC and counted;
the phase becomes CSUM exactly when `pay_cnt` reaches `len_reg`. -/
def Obligations.PayloadByteIsStored : Prop :=
  ∀ (s : State) (b : Byte), s.inReady = true → s.phase = .payload →
    (∀ c, s.params.capacity = some c → s.frame.payCnt.toNat < c) →
      ∃ m : Memory,
        exec (.inByte b) s = .next { s with
          pbuf := m
          frame := { s.frame with crcReg := crcStep s.frame.crcReg b, payCnt := s.frame.payCnt + 1#64 }
          phase := if s.frame.payCnt + 1#64 = s.frame.lenReg then .csum else .payload }
        ∧ m.read s.frame.payCnt.toNat = some b
        ∧ ∀ a, a ≠ s.frame.payCnt.toNat → m.read a = s.pbuf.read a

/-- The model's stop (log 11): R25 gives PBUF no index from PAYLOAD_CAPACITY on, and a payload byte for such an index
faults. No state that meets the invariants gets there. -/
def Obligations.PayloadByteOutsidePbufFaults : Prop :=
  ∀ (s : State) (b : Byte) (c : Nat), s.inReady = true → s.phase = .payload →
    s.params.capacity = some c → c ≤ s.frame.payCnt.toNat → exec (.inByte b) s = .fault .pbufOutOfRange

/-- R126: a checksum byte is shifted in and counted, `crc_reg` is not updated, and the fourth completes the frame. -/
def Obligations.ChecksumByteIsShiftedIn : Prop :=
  ∀ (s : State) (b : Byte), s.inReady = true → s.phase = .csum →
    exec (.inByte b) s = .next { s with
      frame := { s.frame with
        csumReg := (s.frame.csumReg <<< 8) ||| b.setWidth 32
        csumCnt := s.frame.csumCnt + 1#3 }
      phase := if s.frame.csumCnt + 1#3 = 4#3 then .eval else .csum }

/-- R127 to R129: the end of the stream raises IncompleteFrame in every accepting phase, with the segment that was
cut short, and `err_boundary` 1 exactly when no byte of the frame was accepted; nothing else changes. Where `in_ready`
is 0 it is held. -/
def Obligations.StreamEndRaisesIncompleteFrame : Prop :=
  ∀ s : State,
    (s.inReady = true →
      exec .inEnd s = .next { s with
        err := ⟨.incompleteFrame,
          if s.phase = .len then .length else if s.phase = .payload then .payload else .checksum,
          decide (s.phase = .len ∧ s.frame.lenCnt = 0#4)⟩
        cnt := { s.cnt with incomplete := s.cnt.incomplete + 1#32 }
        phase := .error })
    ∧ (s.inReady = false → exec .inEnd s = .next s)

/-- R120, R131: where `in_ready` is 0 a byte changes no state. -/
def Obligations.HeldByteChangesNothing : Prop :=
  ∀ (s : State) (b : Byte), s.inReady = false → exec (.inByte b) s = .next s

/-- R134, first sentence: from a fresh frame, source turns over `be64(L) ++ P ++ be32(C)` reach EVAL with `len_reg`
= L, `pbuf[0..L)` = P, `csum_reg` = C and the CRC state of `be64(L) ++ P`; the rest of the stream, PBUF from index L
on and every other field are as before. -/
def Obligations.ReaderAcceptsExactlyOneFrame : Prop :=
  ∀ (s : State) (p : List Byte) (c : U32) (rest : List (BitVec 9)) (ts : List Turn),
    s.rst = false → s.ctrlEn = true → s.phase = .len → s.frame = FrameRegs.init → p.length < 2 ^ 64 →
    (∀ n, s.params.capacity = some n → p.length ≤ n) →
    s.env.stream = (be64 (BitVec.ofNat 64 p.length) ++ p ++ be32 c).map (fun b => 0#1 ++ b) ++ rest →
    s.env.turns = List.replicate (12 + p.length) .source ++ ts →
      ∃ m : Memory,
        runSteps (12 + p.length) s = .next { s with
          phase := .eval
          frame := ⟨8, BitVec.ofNat 64 p.length, BitVec.ofNat 64 p.length, 4, c,
            crcRun 0xFFFFFFFF#32 (be64 (BitVec.ofNat 64 p.length) ++ p)⟩
          pbuf := m
          env := { s.env with stream := rest, turns := ts } }
        ∧ m.readBytes 0 p.length = some p
        ∧ ∀ a, p.length ≤ a → m.read a = s.pbuf.read a

/-- R134, second sentence: if the stream ends after the first `k` bytes of a frame, `k` < 12 + L, the block is in
ERROR with INCOMPLETE_FRAME, the segment the cut falls in, and `err_boundary` 1 exactly for `k` = 0. -/
def Obligations.TruncatedFrameIsIncomplete : Prop :=
  ∀ (s : State) (p : List Byte) (c : U32) (k : Nat) (ts : List Turn),
    s.rst = false → s.ctrlEn = true → s.phase = .len → s.frame = FrameRegs.init → p.length < 2 ^ 64 →
    (∀ n, s.params.capacity = some n → p.length ≤ n) → k < 12 + p.length →
    s.env.stream =
      ((be64 (BitVec.ofNat 64 p.length) ++ p ++ be32 c).take k).map (fun b => 0#1 ++ b) ++ [0x100] →
    s.env.turns = List.replicate (k + 1) .source ++ ts →
      ∃ t : State, runSteps (k + 1) s = .next t ∧ t.phase = .error
        ∧ t.err = ⟨.incompleteFrame,
            if k < 8 then .length else if k < 8 + p.length then .payload else .checksum, decide (k = 0)⟩
        ∧ t.cnt = { s.cnt with incomplete := s.cnt.incomplete + 1#32 }
        ∧ t.env = { s.env with stream := [], turns := ts }

/-! ## Checksum (41_checksum_verifier.md) -/

/-- R157: the table form of CrcStep, with `T[i] = CrcStep(0, i)`. -/
def Obligations.CrcStepHasTableForm : Prop :=
  ∀ (c : U32) (b : Byte), crcStep c b = (c >>> 8) ^^^ crcStep 0 ((c ^^^ b.setWidth 32).setWidth 8)

/-- R156: two byte strings of one length that differ in one byte only have different checksums; with them every
single-bit flip in the covered bytes that keeps L. -/
def Obligations.SingleByteChangeIsDetected : Prop :=
  ∀ (before after : List Byte) (b b' : Byte), b ≠ b' →
    crc32 (before ++ b :: after) ≠ crc32 (before ++ b' :: after)

/-! ## EVAL (41_checksum_verifier.md R152, 42_payload_decoder.md R189) -/

/-- R152, R155: a computed checksum that differs raises ChecksumMismatch, counts it and changes nothing else: PBUF is
not read, no message is decoded. -/
def Obligations.MismatchDiscardsTheFrame : Prop :=
  ∀ (s : State) (ts : List Turn), s.env.turns = .block :: ts → s.phase = .eval →
    s.frame.crcReg ^^^ 0xFFFFFFFF#32 ≠ s.frame.csumReg →
      step s = .next { s with
        err := ⟨.checksumMismatch, .length, false⟩
        cnt := { s.cnt with checksum := s.cnt.checksum + 1#32 }
        phase := .error
        env := { s.env with turns := ts } }

/-- R189, R264: a verified payload that does not parse raises MalformedPayload, counts it and changes nothing else. -/
def Obligations.UnparsedPayloadIsMalformed : Prop :=
  ∀ (s : State) (ts : List Turn) (p : List Byte), s.env.turns = .block :: ts → s.phase = .eval →
    s.frame.crcReg ^^^ 0xFFFFFFFF#32 = s.frame.csumReg →
    (∀ c, s.params.capacity = some c → s.frame.lenReg.toNat ≤ c) →
    s.pbuf.bytesAt s.pbufEpoch 0 s.frame.lenReg.toNat = p → payloadDecode s.params p = none →
      step s = .next { s with
        err := ⟨.malformedPayload, .length, false⟩
        cnt := { s.cnt with malformed := s.cnt.malformed + 1#32 }
        phase := .error
        env := { s.env with turns := ts } }

/-- R189, R191, R210: a verified payload that parses to `(t, d)` writes the message, its route by the discriminant
(any value from 3 on is UNRECOGNIZED and no error) and phase DELIVER, and nothing else. -/
def Obligations.ParsedPayloadBecomesTheMessage : Prop :=
  ∀ (s : State) (ts : List Turn) (p : List Byte) (t : Byte) (d : List Byte),
    s.env.turns = .block :: ts → s.phase = .eval →
    s.frame.crcReg ^^^ 0xFFFFFFFF#32 = s.frame.csumReg →
    (∀ c, s.params.capacity = some c → s.frame.lenReg.toNat ≤ c) →
    s.pbuf.bytesAt s.pbufEpoch 0 s.frame.lenReg.toNat = p → payloadDecode s.params p = some (t, d) →
      step s = .next { s with
        msgType := t
        msgData := d
        msgRoute := if t = 0#8 then .block else if t = 1#8 then .transaction else if t = 2#8 then .consensus
          else .unrecognized
        phase := .deliver
        env := { s.env with turns := ts } }

/-- EVAL of a frame that fits PBUF completes whatever PBUF holds, also at indices nothing was written to, whose bytes
are unspecified (R25, 93 I1 "any value"; free values, log 1): it ends in DELIVER or ERROR (R152, R189) and changes
neither PBUF, the frame state nor what the agents hold. -/
def Obligations.EvalCompletesWhateverPbufHolds : Prop :=
  ∀ (s : State) (ts : List Turn), s.env.turns = .block :: ts → s.phase = .eval →
    (∀ c, s.params.capacity = some c → s.frame.lenReg.toNat ≤ c) →
      ∃ t : State, step s = .next t ∧ (t.phase = .deliver ∨ t.phase = .error)
        ∧ t.pbuf = s.pbuf ∧ t.pbufEpoch = s.pbufEpoch ∧ t.frame = s.frame ∧ t.env = { s.env with turns := ts }

/-! ## Payload decoder (42_payload_decoder.md) -/

/-- R171 to R187: the procedure of R188 accepts exactly the byte strings of the grammar, with exactly the message
they spell. -/
def Obligations.JsonDecoderMeetsItsGrammar : Prop :=
  ∀ (k : Params) (p : List Byte) (t : Byte) (d : List Byte), k.WellFormed →
    (decodeJson k p = some (t, d) ↔ JsonPayload k p t d)

/-- R194: every message comes back from its canonical payload, and "????" does not parse (E1 to E4 of R190). -/
def Obligations.JsonDecodesEveryCanonicalPayload : Prop :=
  ∀ k : Params, k.WellFormed →
    (∀ (t : Byte) (d : List Byte), decodeJson k (canonEncode k t d) = some (t, d))
      ∧ decodeJson k [0x3F, 0x3F, 0x3F, 0x3F] = none

/-- R31, R185: the decoded data of a payload of L bytes is at most 3·⌊L/4⌋ bytes. -/
def Obligations.DecodedDataIsBounded : Prop :=
  ∀ (k : Params) (p : List Byte) (t : Byte) (d : List Byte),
    decodeJson k p = some (t, d) → d.length ≤ 3 * (p.length / 4)

/-! ## Router (43_router.md) -/

/-- R210 to R213: each ROUTE operation completes and writes `msg_route`. The model's reading (log 12, DEDUCED): the
three known ones write nothing else, and ROUTE.UNRECOGNIZED also writes its operand to `msg_type`. The last clause runs
over every byte; 0, 1 and 2 are no operand of ROUTE.UNRECOGNIZED and no encoding gives them to it. -/
def Obligations.RouteOperationsWriteTheRoute : Prop :=
  ∀ s : State,
    exec .routeBlock s = .next { s with msgRoute := .block }
    ∧ exec .routeTransaction s = .next { s with msgRoute := .transaction }
    ∧ exec .routeConsensus s = .next { s with msgRoute := .consensus }
    ∧ ∀ t : Byte, exec (.routeUnrecognized t) s = .next { s with msgRoute := .unrecognized, msgType := t }

/-- R214: on the sink's turn in phase DELIVER with the message's port ready, the message is handed over, `cnt_ok`
counts it and the frame restarts; EN does not gate it. The model's choices: `msg_data` is kept (log 17; R31 lets a model
discard it), and a sink's turn without both conditions passes and changes nothing (log 3; R217 calls it a hold). -/
def Obligations.DeliverHandsTheMessageOver : Prop :=
  ∀ (s : State) (ts : List Turn), s.env.turns = .sink :: ts →
    (s.phase = .deliver → s.env.sinkReady.getLsbD s.msgRoute.bits.toNat = true →
      step s = .next { s with
        phase := .len
        frame := ⟨0, 0, 0, 0, 0, 0xFFFFFFFF#32⟩
        cnt := { s.cnt with ok := s.cnt.ok + 1#32 }
        env := { s.env with turns := ts, received := s.env.received ++ [⟨s.msgRoute, s.msgType, s.msgData⟩] } })
    ∧ ((s.phase ≠ .deliver ∨ s.env.sinkReady.getLsbD s.msgRoute.bits.toNat = false) →
      step s = .next { s with env := { s.env with turns := ts } })

/-- R217: while the sink is not ready on port `msg_route`, whatever the other three ports do, every step of every agent
but reset and a CTRL write with CLEAR leaves the block in DELIVER with its message, takes no input and emits nothing. -/
def Obligations.BackpressureHoldsTheBlock : Prop :=
  ∀ s t : State, s.phase = .deliver → s.env.sinkReady.getLsbD s.msgRoute.bits.toNat = false → step s = .next t →
    (∀ l ts, s.env.turns ≠ .rst l :: ts) →
    (∀ ts r rs v, s.env.turns = .host :: ts → s.env.requests = r :: rs → decode (.csr r) = .csrWriteCtrl v →
      v.getLsbD 8 = false) →
      t.phase = .deliver ∧ t.msgType = s.msgType ∧ t.msgRoute = s.msgRoute ∧ t.msgData = s.msgData
        ∧ t.env.stream = s.env.stream ∧ t.env.received = s.env.received

/-- R132, R214, R216: a step hands over at most one message; it is the pending one, handed over on the sink's turn in
phase DELIVER, after all earlier ones. -/
def Obligations.OnlyDeliverEmits : Prop :=
  ∀ s t : State, step s = .next t →
    t.env.received = s.env.received
    ∨ (s.phase = .deliver ∧ (∃ ts, s.env.turns = .sink :: ts)
      ∧ s.env.sinkReady.getLsbD s.msgRoute.bits.toNat = true
      ∧ t.env.received = s.env.received ++ [⟨s.msgRoute, s.msgType, s.msgData⟩])

/-- W1 (R134, R152, R189, R194, R214): the frame of a message's canonical payload, then the block's turn and the
sink's, hands over exactly that message on the port of its type and leaves the block ready for the next frame. -/
def Obligations.FramedMessageIsDelivered : Prop :=
  ∀ (s : State) (t : Byte) (d : List Byte) (rest : List (BitVec 9)) (ts : List Turn) (n : Nat),
    n = (canonEncode s.params t d).length → n < 2 ^ 64 →
    s.params.WellFormed → s.params.codec = .jsonStrict → (∀ c, s.params.capacity = some c → n ≤ c) →
    s.rst = false → s.ctrlEn = true → s.phase = .len → s.frame = FrameRegs.init → s.env.sinkReady = 0xF →
    s.env.stream = (frameBytes (canonEncode s.params t d)).map (fun b => 0#1 ++ b) ++ rest →
    s.env.turns = List.replicate (12 + n) .source ++ [.block, .sink] ++ ts →
      ∃ u : State, runSteps (14 + n) s = .next u ∧ u.phase = .len ∧ u.frame = FrameRegs.init
        ∧ u.env = { s.env with stream := rest, turns := ts, received := s.env.received ++ [⟨classify t, t, d⟩] }
        ∧ u.cnt = { s.cnt with ok := s.cnt.ok + 1#32 } ∧ u.msgType = t ∧ u.msgRoute = classify t ∧ u.err = s.err

/-- R52: a message of n bytes is max(n, 1) beats on its port with its type; beat i carries data byte i, the first and
only the first has `out_first`, the last and only the last `out_last`, and `out_empty` (with `out_data` 0) is the
single beat of an empty message. -/
def Obligations.BeatsCarryTheMessage : Prop :=
  ∀ m : Message,
    m.beats.length = max m.data.length 1
    ∧ ∀ (i : Nat) (b : Beat), m.beats[i]? = some b →
        b.port = m.port ∧ b.outType = m.disc ∧ b.outData = m.data.getD i 0
        ∧ b.first = decide (i = 0) ∧ b.last = decide (i + 1 = m.beats.length) ∧ b.empty = m.data.isEmpty

/-! ## Host CSR operations (44_host_csr.md) -/

/-- R231: CTRL at offset 0x00 reads EN in bit 0, IE in bit 1 and 0 elsewhere; a read changes nothing but the
response. -/
def Obligations.CtrlReadShowsEnables : Prop :=
  ∀ (s : State) (w : U32), s.rst = false →
    decode (.csr ⟨0x000, 4, w⟩) = .csrReadCtrl
    ∧ ∃ v : U32, exec .csrReadCtrl s = .next { s with csrResp := some ⟨false, some v⟩ }
      ∧ v.getLsbD 0 = s.ctrlEn ∧ v.getLsbD 1 = s.ctrlIe ∧ v.extractLsb' 2 30 = 0

/-- R232, R44: STATUS at offset 0x04, field by field. -/
def Obligations.StatusReadShowsFields : Prop :=
  ∀ (s : State) (w : U32), s.rst = false →
    decode (.csr ⟨0x004, 4, w⟩) = .csrReadStatus
    ∧ ∃ v : U32, exec .csrReadStatus s = .next { s with csrResp := some ⟨false, some v⟩ }
      ∧ v.extractLsb' 0 3 = s.phase.bits ∧ v.getLsbD 3 = false
      ∧ v.extractLsb' 4 3 = s.err.code.bits ∧ v.getLsbD 7 = false
      ∧ v.extractLsb' 8 2 = s.err.seg.bits ∧ v.getLsbD 10 = s.err.boundary
      ∧ v.getLsbD 11 = (s.ctrlIe && s.err.code != .noError)
      ∧ v.extractLsb' 12 4 = s.frame.lenCnt ∧ v.extractLsb' 16 3 = s.frame.csumCnt
      ∧ v.getLsbD 19 = (s.ctrlEn && (s.phase == .len || s.phase == .payload || s.phase == .csum))
      ∧ v.extractLsb' 20 12 = 0

/-- R240, R241: PCNT_LO at 0x10 and PCNT_HI at 0x14. -/
def Obligations.PayloadCountReads : Prop :=
  ∀ (s : State) (w : U32), s.rst = false →
    decode (.csr ⟨0x010, 4, w⟩) = .csrReadPcntLo
    ∧ exec .csrReadPcntLo s = .next { s with csrResp := some ⟨false, some (s.frame.payCnt.extractLsb' 0 32)⟩ }
    ∧ decode (.csr ⟨0x014, 4, w⟩) = .csrReadPcntHi
    ∧ exec .csrReadPcntHi s = .next { s with csrResp := some ⟨false, some (s.frame.payCnt.extractLsb' 32 32)⟩ }

/-- R234, R235: LEN_LO at 0x08 and LEN_HI at 0x0C. -/
def Obligations.LengthReads : Prop :=
  ∀ (s : State) (w : U32), s.rst = false →
    decode (.csr ⟨0x008, 4, w⟩) = .csrReadLenLo
    ∧ exec .csrReadLenLo s = .next { s with csrResp := some ⟨false, some (s.frame.lenReg.extractLsb' 0 32)⟩ }
    ∧ decode (.csr ⟨0x00C, 4, w⟩) = .csrReadLenHi
    ∧ exec .csrReadLenHi s = .next { s with csrResp := some ⟨false, some (s.frame.lenReg.extractLsb' 32 32)⟩ }

/-- R242, R243: CRC_RX at 0x18 and CRC_CALC at 0x1C. -/
def Obligations.ChecksumReads : Prop :=
  ∀ (s : State) (w : U32), s.rst = false →
    decode (.csr ⟨0x018, 4, w⟩) = .csrReadCrcRx
    ∧ exec .csrReadCrcRx s = .next { s with csrResp := some ⟨false, some s.frame.csumReg⟩ }
    ∧ decode (.csr ⟨0x01C, 4, w⟩) = .csrReadCrcCalc
    ∧ exec .csrReadCrcCalc s = .next { s with csrResp := some ⟨false, some (s.frame.crcReg ^^^ 0xFFFFFFFF#32)⟩ }

/-- R244: MSG_INFO at 0x20 reads the type in bits 7:0, the route in bits 9:8 and 0 above. -/
def Obligations.MessageInfoRead : Prop :=
  ∀ (s : State) (w : U32), s.rst = false →
    decode (.csr ⟨0x020, 4, w⟩) = .csrReadMsgInfo
    ∧ ∃ v : U32, exec .csrReadMsgInfo s = .next { s with csrResp := some ⟨false, some v⟩ }
      ∧ v.extractLsb' 0 8 = s.msgType ∧ v.extractLsb' 8 2 = s.msgRoute.bits ∧ v.extractLsb' 10 22 = 0

/-- R245 to R249: the five counters at 0x24 to 0x34. -/
def Obligations.CounterReads : Prop :=
  ∀ (s : State) (w : U32), s.rst = false →
    decode (.csr ⟨0x024, 4, w⟩) = .csrReadCntOk
    ∧ exec .csrReadCntOk s = .next { s with csrResp := some ⟨false, some s.cnt.ok⟩ }
    ∧ decode (.csr ⟨0x028, 4, w⟩) = .csrReadCntIncomplete
    ∧ exec .csrReadCntIncomplete s = .next { s with csrResp := some ⟨false, some s.cnt.incomplete⟩ }
    ∧ decode (.csr ⟨0x02C, 4, w⟩) = .csrReadCntChecksum
    ∧ exec .csrReadCntChecksum s = .next { s with csrResp := some ⟨false, some s.cnt.checksum⟩ }
    ∧ decode (.csr ⟨0x030, 4, w⟩) = .csrReadCntMalformed
    ∧ exec .csrReadCntMalformed s = .next { s with csrResp := some ⟨false, some s.cnt.malformed⟩ }
    ∧ decode (.csr ⟨0x034, 4, w⟩) = .csrReadCntOversize
    ∧ exec .csrReadCntOversize s = .next { s with csrResp := some ⟨false, some s.cnt.oversize⟩ }

/-- R236, R238, R239: a CTRL write writes EN and IE; bit 8 restarts framing in LEN with the error record and
`msg_data` cleared; bit 9 zeroes the five counters; nothing else changes. That the response holds no read data is the
model's choice (log 7). -/
def Obligations.CtrlWriteActs : Prop :=
  ∀ (s : State) (v : U32), s.rst = false →
    exec (.csrWriteCtrl v) s = .next { s with
      ctrlEn := v.getLsbD 0
      ctrlIe := v.getLsbD 1
      phase := if v.getLsbD 8 then .len else s.phase
      frame := if v.getLsbD 8 then ⟨0, 0, 0, 0, 0, 0xFFFFFFFF#32⟩ else s.frame
      err := if v.getLsbD 8 then ⟨.noError, .length, false⟩ else s.err
      msgData := if v.getLsbD 8 then [] else s.msgData
      cnt := if v.getLsbD 9 then ⟨0, 0, 0, 0, 0⟩ else s.cnt
      csrResp := some ⟨false, none⟩ }

/-- R81: repeating the same CTRL write gives the same state as writing it once. -/
def Obligations.CtrlWriteIsIdempotent : Prop :=
  ∀ (s t : State) (v : U32), exec (.csrWriteCtrl v) s = .next t → exec (.csrWriteCtrl v) t = .next t

/-- R233: an illegal request is answered with a bus error, reads 0, and changes no state. That a write's response
holds no read data is the model's choice (log 7). -/
def Obligations.IllegalRequestChangesNoState : Prop :=
  ∀ (s : State) (we : Bool) (off : Byte) (size : Nat), s.rst = false →
    (Instr.csrIllegal we off size).WellFormed →
      exec (.csrIllegal we off size) s = .next { s with csrResp := some ⟨true, if we then none else some 0⟩ }

/-- R290: a request while `rst` is 1 gets no response. That the host then waits with it is the model's choice
(log 6). -/
def Obligations.RequestUnderResetIsNotAnswered : Prop :=
  ∀ (s : State) (r : CsrRequest) (rs : List CsrRequest) (ts : List Turn), s.rst = true →
    s.env.turns = .host :: ts → s.env.requests = r :: rs →
      step s = .next { s with env := { s.env with turns := ts } }

/-- R237: a CTRL write with EN = 0 and no action stops input at once and keeps every bit of the frame. -/
def Obligations.PauseKeepsTheFrame : Prop :=
  ∀ (s t : State) (v : U32), v.getLsbD 0 = false → v.getLsbD 8 = false → exec (.csrWriteCtrl v) s = .next t →
    t.inReady = false ∧ t.phase = s.phase ∧ t.frame = s.frame ∧ t.pbuf = s.pbuf ∧ t.err = s.err

/-! ## Errors (60_exceptions.md) -/

/-- R268, R270: a step that enters ERROR raises exactly one error, counts exactly it, consumes no more than its own
symbol, and leaves the message, CTRL, the ports and `cnt_ok` alone. -/
def Obligations.ErrorEntryCountsOneError : Prop :=
  ∀ s t : State, step s = .next t → s.phase ≠ .error → t.phase = .error →
    t.err.code ≠ .noError ∧ t.cnt = s.cnt.count t.err.code ∧ t.cnt.ok = s.cnt.ok
      ∧ t.msgType = s.msgType ∧ t.msgRoute = s.msgRoute ∧ t.msgData = s.msgData
      ∧ t.ctrlEn = s.ctrlEn ∧ t.ctrlIe = s.ctrlIe ∧ t.env.received = s.env.received
      ∧ s.env.stream.length ≤ t.env.stream.length + 1

/-- R273, R274: in phase ERROR nothing but a CTRL write and reset changes the block: no symbol is taken, no message
handed over, no second error counted. A read or a bad request shows in the response only. -/
def Obligations.ErrorIsSticky : Prop :=
  ∀ s t : State, s.phase = .error → step s = .next t →
    (∀ ts r rs v, s.env.turns = .host :: ts → s.env.requests = r :: rs → decode (.csr r) ≠ .csrWriteCtrl v) →
    (∀ l ts, s.env.turns ≠ .rst l :: ts) →
      t = { s with csrResp := t.csrResp, env := t.env }
        ∧ t.env.stream = s.env.stream ∧ t.env.received = s.env.received

/-- R38, R266: in a state that meets the invariants `irq` is 1 exactly in phase ERROR with IE = 1. -/
def Obligations.IrqIsTheErrorLevel : Prop :=
  ∀ s : State, s.Inv → (s.irq = true ↔ s.ctrlIe = true ∧ s.phase = .error)

/-- R249, R262: with PAYLOAD_CAPACITY = UNBOUNDED no step counts or records LENGTH_EXCEEDS_CAPACITY. -/
def Obligations.UnboundedNeverExceedsCapacity : Prop :=
  ∀ s t : State, s.params.capacity = none → s.cnt.oversize = 0 → s.err.code ≠ .lengthExceedsCapacity →
    step s = .next t → t.cnt.oversize = 0 ∧ t.err.code ≠ .lengthExceedsCapacity

/-! ## Reset (70_reset_and_hazards.md, 10_state.md R57) -/

/-- R57: the values of the reset table, the derived signals with them; `in_ready` is 0 while `rst` is 1. -/
def Obligations.ResetLeavesTheTableValues : Prop :=
  State.reset.phase = .len ∧ State.reset.frame = ⟨0, 0, 0, 0, 0, 0xFFFFFFFF#32⟩
    ∧ State.reset.msgType = 0 ∧ State.reset.msgRoute.bits = 0 ∧ State.reset.msgData = []
    ∧ State.reset.err = ⟨.noError, .length, false⟩
    ∧ State.reset.ctrlEn = true ∧ State.reset.ctrlIe = false ∧ State.reset.cnt = ⟨0, 0, 0, 0, 0⟩
    ∧ State.reset.inReady = true ∧ ({ State.reset with rst := true } : State).inReady = false
    ∧ State.reset.irq = false ∧ ∀ r, State.reset.outValid r = false

/-- R290: driving `rst` to 1, in any state, puts every element at its reset value, and releasing it does so once more.
The model's choices: PBUF's contents are unspecified anew (log 1: nothing written, some number `n` of the free value),
no response stands on the CSR port (log 7), and the other agents keep what they hold (log 9). -/
def Obligations.ResetTurnRestoresResetValues : Prop :=
  ∀ (s : State) (ts : List Turn),
    (s.env.turns = .rst true :: ts →
      ∃ n, step s = .next
        { State.reset with params := s.params, rst := true, pbufEpoch := n, env := { s.env with turns := ts } })
    ∧ (s.env.turns = .rst false :: ts → s.rst = true →
      ∃ n, step s = .next
        { State.reset with params := s.params, rst := false, pbufEpoch := n, env := { s.env with turns := ts } })

/-! ## Invariants (10_state.md R39) -/

/-- The reset state meets the invariants, for every value of the parameters. -/
def Obligations.ResetMeetsTheInvariants : Prop :=
  ∀ k : Params, ({ State.reset with params := k } : State).Inv

/-- R39: every step of every agent keeps the invariants. (In phase ERROR after LENGTH_EXCEEDS_CAPACITY the model
follows R270 and V-RDR-4, log 13.) -/
def Obligations.EveryStepKeepsTheInvariants : Prop :=
  ∀ s t : State, s.Inv → step s = .next t → t.Inv

/-- R265: from a state that meets the invariants no step faults or is refused, whatever the agents do. -/
def Obligations.InvariantStatesStepOn : Prop :=
  ∀ s : State, s.Inv → s.StepsOn

/-- R7 to R10, R56: no step changes a parameter. -/
def Obligations.StepsKeepTheParameters : Prop :=
  ∀ s t : State, step s = .next t → t.params = s.params

/-- R29, R30: `msg_type` and `msg_route` change only by a successful EVAL, which writes the route of the type, or by
reset. -/
def Obligations.OnlyEvalWritesTheMessage : Prop :=
  ∀ s t : State, step s = .next t → (t.msgType ≠ s.msgType ∨ t.msgRoute ≠ s.msgRoute) →
    (s.phase = .eval ∧ t.phase = .deliver ∧ t.msgRoute = classify t.msgType)
      ∨ ((∃ l ts, s.env.turns = .rst l :: ts) ∧ t.msgType = 0 ∧ t.msgRoute = .block)

/-! ## PBUF's range, the reset hold and the trace schedule -/

/-- The model's stop (log 11): R25 gives PBUF no index from PAYLOAD_CAPACITY on, and EVAL of a verified frame that is
longer than PBUF faults. No state that meets the invariants gets there. -/
def Obligations.EvalOutsidePbufFaults : Prop :=
  ∀ (s : State) (ts : List Turn) (c : Nat), s.env.turns = .block :: ts → s.phase = .eval →
    s.frame.crcReg ^^^ 0xFFFFFFFF#32 = s.frame.csumReg → s.params.capacity = some c → c < s.frame.lenReg.toNat →
      step s = .fault .pbufOutOfRange

/-- R290: while `rst` is 1 and the block is at its reset values, no agent's step but one of `rst` itself changes the
block, takes a symbol or a request, or emits a message. That a request stays with the host is log 6. -/
def Obligations.ResetHoldsTheBlock : Prop :=
  ∀ s t : State, s.ResetHeld → step s = .next t → (∀ l ts, s.env.turns ≠ .rst l :: ts) →
    t = { s with env := t.env } ∧ t.env.stream = s.env.stream ∧ t.env.requests = s.env.requests
      ∧ t.env.received = s.env.received

/-- R103: a trace line offered in phase EVAL runs on the state that EVAL leaves. -/
def Obligations.TraceLineRunsAfterEval : Prop :=
  ∀ (op : TraceOp) (s t : State), s.env.turns = [] → s.phase = .eval → step s = .next t → op.run s = op.run t
end

