-- ==== Sys2Proof/Laws/Codec.lean ====
section
/-! SUPPORT. What each function of the payload decoder reads, in terms of the bytes before and after
(42_payload_decoder.md R188). -/

namespace Sys2Proof.Machine

theorem isWs_iff (b : Byte) : isWs b = true ↔ b = 0x20 ∨ b = 0x09 ∨ b = 0x0A ∨ b = 0x0D := by
  simp [isWs, or_assoc]

theorem isDigit_iff (b : Byte) : isDigit b = true ↔ 0x30 ≤ b.toNat ∧ b.toNat ≤ 0x39 := by simp [isDigit]

/-- SkipWS drops a run of white space, and the next byte, if any, is no white space. -/
theorem skipWs_split (p : List Byte) :
    ∃ w, WsRun w ∧ p = w ++ skipWs p ∧ ∀ b q, skipWs p = b :: q → isWs b = false := by
  induction p with
  | nil => exact ⟨[], by simp [WsRun], rfl, by simp [skipWs]⟩
  | cons b rest ih =>
    by_cases hb : isWs b = true
    · obtain ⟨w, hw, he, hn⟩ := ih
      have hs : skipWs (b :: rest) = skipWs rest := by simp [skipWs, hb]
      refine ⟨b :: w, ?_, by rw [hs, List.cons_append, ← he], by rw [hs]; exact hn⟩
      intro x hx
      rcases List.mem_cons.mp hx with rfl | hx
      · exact (isWs_iff x).mp hb
      · exact hw x hx
    · have hs : skipWs (b :: rest) = b :: rest := by simp [skipWs, hb]
      refine ⟨[], by simp [WsRun], by rw [hs]; rfl, fun x q h => ?_⟩
      rw [hs] at h
      injection h with h _
      subst h
      simpa using hb

/-- White space before `q` is skipped with `q`'s own. -/
theorem skipWs_append {w : List Byte} (q : List Byte) (h : WsRun w) : skipWs (w ++ q) = skipWs q := by
  induction w with
  | nil => rfl
  | cons b w ih =>
    have hb : isWs b = true := (isWs_iff b).mpr (h b List.mem_cons_self)
    simp [skipWs, hb, ih fun x hx => h x (List.mem_cons_of_mem _ hx)]

theorem skipWs_cons {b : Byte} (q : List Byte) (h : isWs b = false) : skipWs (b :: q) = b :: q := by simp [skipWs, h]

/-- Expect reads exactly its byte. -/
theorem expectByte_eq_some {c : Byte} {p r : List Byte} : expectByte c p = some r ↔ p = c :: r := by
  cases p with
  | nil => simp [expectByte]
  | cons b rest =>
    by_cases h : b = c
    · simp [expectByte, h]
    · simp [expectByte, h]

/-- A byte that may stand in a string body (R173). -/
abbrev StringByte (b : Byte) : Prop := b ≠ 0x22 ∧ b ≠ 0x5C ∧ 0x20 ≤ b.toNat

/-- ScanString reads a body of admitted bytes and its closing quote. -/
theorem scanBody_eq_some {p body r : List Byte} :
    scanBody p = some (body, r) ↔ p = body ++ 0x22 :: r ∧ ∀ b ∈ body, StringByte b := by
  induction p generalizing body with
  | nil => simp [scanBody]
  | cons b rest ih =>
    unfold scanBody
    by_cases hq : b = 0x22
    · rw [if_pos hq]
      cases body with
      | nil => simp [hq]
      | cons x body =>
        simp only [Option.some.injEq, Prod.mk.injEq, List.cons_append, List.cons.injEq, List.mem_cons]
        constructor
        · rintro ⟨h, -⟩; cases h
        · rintro ⟨⟨rfl, -⟩, h⟩; exact absurd hq (h _ (.inl rfl)).1
    · rw [if_neg hq]
      by_cases hc : b = 0x5C ∨ b.toNat < 0x20
      · rw [if_pos hc]
        constructor
        · intro h; cases h
        · rintro ⟨h, hall⟩
          cases body with
          | nil => exact absurd (List.cons.inj h).1 hq
          | cons x body =>
            obtain ⟨rfl, -⟩ := List.cons.inj h
            have := hall b List.mem_cons_self
            rcases hc with hc | hc
            · exact absurd hc this.2.1
            · exact absurd this.2.2 (by omega)
      · rw [if_neg hc]
        simp only [not_or, not_lt] at hc
        constructor
        · intro h
          obtain ⟨⟨body', r'⟩, h1, h2⟩ := Option.map_eq_some_iff.mp h
          obtain ⟨rfl, rfl⟩ := Prod.mk.inj h2
          obtain ⟨rfl, hall⟩ := ih.mp h1
          refine ⟨rfl, fun x hx => ?_⟩
          rcases List.mem_cons.mp hx with rfl | hx
          · exact ⟨hq, hc.1, hc.2⟩
          · exact hall x hx
        · rintro ⟨h, hall⟩
          cases body with
          | nil => exact absurd (List.cons.inj h).1 hq
          | cons x body =>
            obtain ⟨rfl, h'⟩ := List.cons.inj h
            have := ih.mpr ⟨h', fun y hy => hall y (List.mem_cons_of_mem _ hy)⟩
            rw [this]; rfl

theorem scanString_eq_some {p body r : List Byte} :
    scanString p = some (body, r) ↔ p = quoted body ++ r ∧ ∀ b ∈ body, StringByte b := by
  unfold scanString quoted
  rw [Option.bind_eq_some_iff]
  constructor
  · rintro ⟨q, h1, h2⟩
    obtain rfl := expectByte_eq_some.mp h1
    obtain ⟨rfl, h⟩ := scanBody_eq_some.mp h2
    exact ⟨by simp, h⟩
  · rintro ⟨rfl, h⟩
    exact ⟨body ++ 0x22 :: r, expectByte_eq_some.mpr (by simp), scanBody_eq_some.mpr ⟨rfl, h⟩⟩

/-- The digit loop reads the longest run of digits. -/
theorem scanDigits_append (v : Nat) {lit q : List Byte} (hl : ∀ b ∈ lit, isDigit b = true)
    (hq : startsWithDigit q = false) :
    scanDigits v (lit ++ q) = (lit.foldl (fun v b => v * 10 + (b.toNat - 0x30)) v, q) := by
  induction lit generalizing v with
  | nil =>
    cases q with
    | nil => rfl
    | cons b q => simp only [startsWithDigit] at hq; simp [scanDigits, hq]
  | cons b lit ih =>
    simp [scanDigits, hl b List.mem_cons_self, ih _ fun x hx => hl x (List.mem_cons_of_mem _ hx)]

theorem startsWithDigit_split (p : List Byte) :
    ∃ lit q, p = lit ++ q ∧ (∀ b ∈ lit, isDigit b = true) ∧ startsWithDigit q = false := by
  induction p with
  | nil => exact ⟨[], [], rfl, by simp, rfl⟩
  | cons b rest ih =>
    by_cases hb : isDigit b = true
    · obtain ⟨lit, q, rfl, h1, h2⟩ := ih
      refine ⟨b :: lit, q, rfl, fun x hx => ?_, h2⟩
      rcases List.mem_cons.mp hx with rfl | hx
      · exact hb
      · exact h1 x hx
    · exact ⟨[], b :: rest, rfl, by simp, by simpa [startsWithDigit] using hb⟩

/-- ParseUint8 reads a literal of the grammar, up to the next byte that is no digit (R177 to R180). -/
theorem parseUint8_eq_some {p r : List Byte} {t : Byte} :
    parseUint8 p = some (t, r) ↔ ∃ lit, p = lit ++ r ∧ TypeLiteral lit t ∧ startsWithDigit r = false := by
  constructor
  · intro h
    cases p with
    | nil => cases h
    | cons b rest =>
      simp only [parseUint8] at h
      split at h
      · cases h
      · rename_i hd
        replace hd : isDigit b = true := by simpa using hd
        split at h
        · rename_i h0
          split at h
          · cases h
          · rename_i hs
            injection h with h
            obtain ⟨rfl, rfl⟩ := Prod.mk.inj h
            subst h0
            exact ⟨[0x30], rfl, ⟨by simp, by simp, .inl rfl, by decide⟩, by simpa using hs⟩
        · rename_i h0
          obtain ⟨lit, q, he, hl, hq⟩ := startsWithDigit_split (b :: rest)
          have hsd := scanDigits_append 0 hl hq
          rw [← he] at hsd
          simp only [hsd] at h
          split at h
          · cases h
          · rename_i hle
            injection h with h
            obtain ⟨rfl, rfl⟩ := Prod.mk.inj h
            have hne : lit ≠ [] := by
              rintro rfl
              rw [List.nil_append] at he
              subst he
              rw [startsWithDigit, hd] at hq
              cases hq
            refine ⟨lit, he, ⟨hne, fun x hx => (isDigit_iff x).mp (hl x hx), .inr ?_, ?_⟩, hq⟩
            · cases lit with
              | nil => exact absurd rfl hne
              | cons x lit =>
                obtain ⟨rfl, -⟩ := List.cons.inj he
                simpa using h0
            · simp only [decimalValue, BitVec.toNat_ofNat]
              omega
  · rintro ⟨lit, rfl, ⟨hne, hdig, hz, hv⟩, hr⟩
    cases lit with
    | nil => exact absurd rfl hne
    | cons b lit =>
      have hb := (isDigit_iff b).mpr (hdig b List.mem_cons_self)
      rcases hz with hz | hz
      · obtain ⟨rfl, rfl⟩ := List.cons.inj hz
        have : t = 0 := by
          apply BitVec.eq_of_toNat_eq
          rw [← hv]; rfl
        subst this
        simp only [List.cons_append, List.nil_append, parseUint8, hr]
        rfl
      · have h0 : b ≠ 0x30 := by simpa using hz
        have hsd := scanDigits_append 0 (lit := b :: lit) (q := r)
          (fun x hx => (isDigit_iff x).mpr (hdig x hx)) hr
        have ht := t.isLt
        have hv' : List.foldl (fun v b => v * 10 + (BitVec.toNat b - 0x30)) 0 (b :: lit) = t.toNat := hv
        simp only [List.cons_append, parseUint8, hb, Bool.not_true, Bool.false_eq_true, if_false, h0]
        rw [← List.cons_append, hsd, hv']
        simp only
        rw [if_neg (by omega)]
        simp

/-! ### Base64 -/

/-- The alphabet of the grammar and the decoder's table agree (R182). -/
theorem b64Char_iff (b : Byte) (n : Nat) : B64Char b n ↔ ∃ v, b64Value b = some v ∧ n = v.toNat := by
  by_cases hn : n < 64
  · have key : ∀ n : Fin 64, ∀ b : Byte,
        (b64Alphabet[n.val]? = some b ↔ b64Value b = some (BitVec.ofNat 6 n.val)) := by decide +kernel
    unfold B64Char
    rw [key ⟨n, hn⟩ b]
    constructor
    · intro h; exact ⟨_, h, by simp; omega⟩
    · rintro ⟨v, h, rfl⟩; rw [h]; simp
  · constructor
    · intro h
      have : b64Alphabet.length = 64 := by decide
      have h2 : b64Alphabet[n]? = none := List.getElem?_eq_none (by omega)
      unfold B64Char at h
      rw [h2] at h
      cases h
    · rintro ⟨v, -, rfl⟩; exact absurd v.isLt hn

theorem b64Word_toNat (v0 v1 v2 v3 : BitVec 6) : (b64Word v0 v1 v2 v3).toNat =
    v0.toNat * 2 ^ 18 + v1.toNat * 2 ^ 12 + v2.toNat * 2 ^ 6 + v3.toNat := by
  unfold b64Word
  simp only [BitVec.toNat_append]
  rw [← Nat.shiftLeft_add_eq_or_of_lt v1.isLt, ← Nat.shiftLeft_add_eq_or_of_lt v2.isLt,
    ← Nat.shiftLeft_add_eq_or_of_lt v3.isLt]
  simp only [Nat.shiftLeft_eq]
  omega

/-- The grammar's group bytes are the fields of the decoder's 24-bit word (R183). -/
theorem groupBytes_eq (v0 v1 v2 v3 : BitVec 6) : groupBytes v0.toNat v1.toNat v2.toNat v3.toNat =
    ((b64Word v0 v1 v2 v3).extractLsb' 16 8, (b64Word v0 v1 v2 v3).extractLsb' 8 8,
      (b64Word v0 v1 v2 v3).extractLsb' 0 8) := by
  have h := b64Word_toNat v0 v1 v2 v3
  unfold groupBytes
  simp only [Prod.mk.injEq]
  refine ⟨?_, ?_, ?_⟩ <;>
    (apply BitVec.eq_of_toNat_eq
     simp only [BitVec.toNat_ofNat, BitVec.extractLsb'_toNat, h, Nat.shiftRight_eq_div_pow])
  simp

theorem b64Value_pad : b64Value 0x3D#8 = none := by decide

theorem b64Decode_of_text {l d : List Byte} (h : Base64Text l d) : b64Decode l = some d := by
  induction h with
  | empty => rfl
  | full h0 h1 h2 h3 _ ih =>
    obtain ⟨v0, e0, rfl⟩ := (b64Char_iff _ _).mp h0
    obtain ⟨v1, e1, rfl⟩ := (b64Char_iff _ _).mp h1
    obtain ⟨v2, e2, rfl⟩ := (b64Char_iff _ _).mp h2
    obtain ⟨v3, e3, rfl⟩ := (b64Char_iff _ _).mp h3
    simp [b64Decode, b64Group, e0, e1, e2, e3, ih, groupBytes_eq]
  | pad1 h0 h1 h2 =>
    obtain ⟨v0, e0, rfl⟩ := (b64Char_iff _ _).mp h0
    obtain ⟨v1, e1, rfl⟩ := (b64Char_iff _ _).mp h1
    obtain ⟨v2, e2, rfl⟩ := (b64Char_iff _ _).mp h2
    have hg : groupBytes v0.toNat v1.toNat v2.toNat 0 = _ := groupBytes_eq v0 v1 v2 0
    simp [b64Decode, b64Group, e0, e1, e2, b64Value_pad, hg]
  | pad2 h0 h1 =>
    obtain ⟨v0, e0, rfl⟩ := (b64Char_iff _ _).mp h0
    obtain ⟨v1, e1, rfl⟩ := (b64Char_iff _ _).mp h1
    have hg : groupBytes v0.toNat v1.toNat 0 0 = _ := groupBytes_eq v0 v1 0 0
    simp [b64Decode, b64Group, e0, e1, b64Value_pad, hg]

/-- What a group that decodes is: full, or the last one with one or two `=` (R182 to R184). -/
theorem b64Group_eq_some {isLast : Bool} {b0 b1 b2 b3 : Byte} {g : List Byte}
    (h : b64Group isLast b0 b1 b2 b3 = some g) :
    ∃ v0 v1, b64Value b0 = some v0 ∧ b64Value b1 = some v1 ∧
      ((∃ v2 v3, b64Value b2 = some v2 ∧ b64Value b3 = some v3 ∧
          g = [(b64Word v0 v1 v2 v3).extractLsb' 16 8, (b64Word v0 v1 v2 v3).extractLsb' 8 8,
            (b64Word v0 v1 v2 v3).extractLsb' 0 8]) ∨
        (∃ v2, b64Value b2 = some v2 ∧ b3 = 0x3D#8 ∧ isLast = true ∧
          g = [(b64Word v0 v1 v2 0).extractLsb' 16 8, (b64Word v0 v1 v2 0).extractLsb' 8 8]) ∨
        (b2 = 0x3D#8 ∧ b3 = 0x3D#8 ∧ isLast = true ∧ g = [(b64Word v0 v1 0 0).extractLsb' 16 8])) := by
  unfold b64Group at h
  split at h
  · rename_i v0 v1 v2 v3 e0 e1 e2 e3
    exact ⟨v0, v1, e0, e1, .inl ⟨v2, v3, e2, e3, (Option.some.inj h).symm⟩⟩
  · rename_i v0 v1 v2 e0 e1 e2 e3
    simp only at h
    split at h
    · rename_i hc
      simp only [Bool.and_eq_true, beq_iff_eq] at hc
      exact ⟨v0, v1, e0, e1, .inr (.inl ⟨v2, e2, hc.2, hc.1, (Option.some.inj h).symm⟩)⟩
    · cases h
  · rename_i v0 v1 e0 e1 e2 e3
    simp only at h
    split at h
    · rename_i hc
      simp only [Bool.and_eq_true, beq_iff_eq] at hc
      exact ⟨v0, v1, e0, e1, .inr (.inr ⟨hc.1.2, hc.2, hc.1.1, (Option.some.inj h).symm⟩)⟩
    · cases h
  · cases h

theorem text_of_b64Decode (l : List Byte) : ∀ {d}, b64Decode l = some d → Base64Text l d := by
  induction l using b64Decode.induct with
  | case1 =>
    intro d h
    simp only [b64Decode, Option.some.injEq] at h
    subst h
    exact .empty
  | case2 b0 b1 b2 b3 rest g d' hd' hg ih =>
    intro d h
    simp only [b64Decode, hg, hd', Option.some.injEq] at h
    subst h
    have iht := ih hd'
    obtain ⟨v0, v1, e0, e1, hcase⟩ := b64Group_eq_some hg
    have c0 := (b64Char_iff b0 _).mpr ⟨v0, e0, rfl⟩
    have c1 := (b64Char_iff b1 _).mpr ⟨v1, e1, rfl⟩
    rcases hcase with ⟨v2, v3, e2, e3, rfl⟩ | ⟨v2, e2, rfl, hl, rfl⟩ | ⟨rfl, rfl, hl, rfl⟩
    · have := Base64Text.full c0 c1 ((b64Char_iff b2 _).mpr ⟨v2, e2, rfl⟩) ((b64Char_iff b3 _).mpr ⟨v3, e3, rfl⟩) iht
      rwa [groupBytes_eq] at this
    · obtain rfl := List.isEmpty_iff.mp hl
      simp only [b64Decode, Option.some.injEq] at hd'
      subst hd'
      have := Base64Text.pad1 c0 c1 ((b64Char_iff b2 _).mpr ⟨v2, e2, rfl⟩)
      have hg : groupBytes v0.toNat v1.toNat v2.toNat 0 = _ := groupBytes_eq v0 v1 v2 0
      rwa [hg] at this
    · obtain rfl := List.isEmpty_iff.mp hl
      simp only [b64Decode, Option.some.injEq] at hd'
      subst hd'
      have := Base64Text.pad2 c0 c1
      have hg : groupBytes v0.toNat v1.toNat 0 0 = _ := groupBytes_eq v0 v1 0 0
      rwa [hg] at this
  | case3 =>
    intro d h
    simp only [b64Decode] at h
    cases h
  | case4 =>
    intro d h
    simp [b64Decode] at h

/-- The decoder's base64 is the grammar's (R181 to R185). -/
theorem b64Decode_eq_some {l d : List Byte} : b64Decode l = some d ↔ Base64Text l d :=
  ⟨text_of_b64Decode l, b64Decode_of_text⟩

end Sys2Proof.Machine
end

