-- ==== Sys2Proof/Laws/Crc.lean ====
section
/-! SUPPORT. The CRC's one shift: linear, and injective (the polynomial's top bit is 1). -/

namespace Sys2Proof.Machine

theorem crcShift_xor (a b : U32) : crcShift (a ^^^ b) = crcShift a ^^^ crcShift b := by
  unfold crcShift
  simp only [BitVec.getLsbD_xor, BitVec.ushiftRight_xor_distrib]
  cases a.getLsbD 0 <;> cases b.getLsbD 0 <;> simp <;> (ext i hi; simp; try grind)

/-- Bit 31 after a shift is bit 0 before it. -/
theorem crcShift_getLsbD_31 (c : U32) : (crcShift c).getLsbD 31 = c.getLsbD 0 := by
  unfold crcShift
  split <;> rename_i hc <;> simp at hc <;> simp [hc]

theorem crcShift_injective {a b : U32} (h : crcShift a = crcShift b) : a = b := by
  have h0 : a.getLsbD 0 = b.getLsbD 0 := by rw [← crcShift_getLsbD_31, ← crcShift_getLsbD_31, h]
  have hs : a >>> 1 = b >>> 1 := by
    unfold crcShift at h
    rw [h0] at h
    split at h
    · simpa using h
    · exact h
  apply BitVec.eq_of_getLsbD_eq
  intro i _
  cases i with
  | zero => exact h0
  | succ i =>
    have := congrArg (fun v => BitVec.getLsbD v i) hs
    simpa [Nat.add_comm] using this

theorem crcRun_append (c : U32) (p q : List Byte) : crcRun c (p ++ q) = crcRun (crcRun c p) q :=
  List.foldl_append

@[simp] theorem crcRun_nil (c : U32) : crcRun c [] = c := rfl
@[simp] theorem crcRun_cons (c : U32) (b : Byte) (p : List Byte) : crcRun c (b :: p) = crcRun (crcStep c b) p := rfl

end Sys2Proof.Machine
end

