-- ==== Sys2Proof/Laws/Memory.lean ====
section
/-! SUPPORT. PBUF: what a write and a read do, and that every operation keeps the canonical form. -/

namespace Sys2Proof.Machine

@[simp] theorem Memory.read_nil (i : Nat) : Memory.read [] i = none := rfl

theorem Memory.read_write_same (m : Memory) (i : Nat) (b : Byte) : (m.write i b).read i = some b := by
  induction m with
  | nil => simp [Memory.write, Memory.read]
  | cons c rest ih =>
    unfold Memory.write
    split
    · simp [Memory.read]
    · split
      · simp [Memory.read]
      · simp [Memory.read, ih]; omega

theorem Memory.read_write_of_ne (m : Memory) {i j : Nat} (b : Byte) (h : j ≠ i) :
    (m.write i b).read j = m.read j := by
  induction m with
  | nil => simp [Memory.write, Memory.read, Ne.symm h]
  | cons c rest ih =>
    unfold Memory.write
    split
    · simp [Memory.read, Ne.symm h]
    · split
      · rename_i h2
        simp [Memory.read, Ne.symm h, ← h2]
      · simp [Memory.read, ih]

/-- Every entry after a write is an old entry or the written one. -/
theorem Memory.mem_write {m : Memory} {i : Nat} {b : Byte} {c : Host.Cell} (h : c ∈ m.write i b) :
    c = (i, b) ∨ c ∈ m := by
  induction m with
  | nil => simpa [Memory.write] using h
  | cons d rest ih =>
    unfold Memory.write at h
    split at h
    · simpa using h
    · split at h
      · rcases List.mem_cons.mp h with h | h
        · exact .inl h
        · exact .inr (List.mem_cons_of_mem _ h)
      · rcases List.mem_cons.mp h with h | h
        · exact .inr (h ▸ List.mem_cons_self)
        · exact (ih h).imp_right (List.mem_cons_of_mem _)

theorem Memory.write_wf {m : Memory} (i : Nat) (b : Byte) (h : m.wf) : (m.write i b).wf := by
  induction m with
  | nil => simp [Memory.wf, Memory.write]
  | cons c rest ih =>
    have hc := List.pairwise_cons.mp h
    unfold Memory.write
    split
    · refine List.pairwise_cons.mpr ⟨fun d hd => ?_, h⟩
      rcases List.mem_cons.mp hd with rfl | hd
      · assumption
      · have := hc.1 d hd
        simp only at *
        omega
    · split
      · rename_i h2
        exact List.pairwise_cons.mpr ⟨fun d hd => by have := hc.1 d hd; simp only at *; omega, hc.2⟩
      · refine List.pairwise_cons.mpr ⟨fun d hd => ?_, ih hc.2⟩
        rcases Memory.mem_write hd with rfl | hd
        · simp only at *
          omega
        · exact hc.1 d hd

theorem Memory.empty_wf : Memory.wf [] := List.Pairwise.nil

theorem Memory.ofBytes_wf (bs : List Byte) (i : Nat) :
    (Memory.ofBytes i bs).wf ∧ ∀ c ∈ Memory.ofBytes i bs, i ≤ c.1 := by
  induction bs generalizing i with
  | nil => simp [Memory.ofBytes, Memory.wf]
  | cons b rest ih =>
    obtain ⟨hw, hge⟩ := ih (i + 1)
    refine ⟨List.pairwise_cons.mpr ⟨fun c hc => hge c hc, hw⟩, fun c hc => ?_⟩
    rcases List.mem_cons.mp hc with rfl | hc
    · exact Nat.le_refl _
    · exact Nat.le_of_succ_le (hge c hc)

/-- A write at an index past those read is not seen. -/
theorem Memory.readBytes_write_of_le (m : Memory) {i n k : Nat} (b : Byte) (h : i + n ≤ k) :
    (m.write k b).readBytes i n = m.readBytes i n := by
  induction n generalizing i with
  | zero => rfl
  | succ n ih =>
    simp only [Memory.readBytes]
    rw [Memory.read_write_of_ne m b (by omega), ih (by omega)]

/-- A written index reads as what was written; any other as the free value (10_state.md R25, log 1). -/
theorem Memory.byteAt_of_read {m : Memory} {i : Nat} {b : Byte} (epoch : Nat) (h : m.read i = some b) :
    m.byteAt epoch i = b := by
  simp [Memory.byteAt, h]

@[simp] theorem Memory.byteAt_write_same (m : Memory) (epoch i : Nat) (b : Byte) :
    (m.write i b).byteAt epoch i = b :=
  Memory.byteAt_of_read epoch (Memory.read_write_same m i b)

theorem Memory.byteAt_write_of_ne (m : Memory) (epoch : Nat) {i j : Nat} (b : Byte) (h : j ≠ i) :
    (m.write i b).byteAt epoch j = m.byteAt epoch j := by
  simp [Memory.byteAt, Memory.read_write_of_ne m b h]

@[simp] theorem Memory.bytesAt_length (m : Memory) (epoch i n : Nat) : (m.bytesAt epoch i n).length = n := by
  induction n generalizing i with
  | zero => rfl
  | succ n ih => simp [Memory.bytesAt, ih]

/-- Where every byte was written, MemRead reads what was written, whatever the unspecified contents are. -/
theorem Memory.bytesAt_of_readBytes {m : Memory} {i n : Nat} {p : List Byte} (epoch : Nat)
    (h : m.readBytes i n = some p) : m.bytesAt epoch i n = p := by
  induction n generalizing i p with
  | zero => simpa [Memory.readBytes, Memory.bytesAt] using h
  | succ n ih =>
    simp only [Memory.readBytes] at h
    split at h
    · cases h
    · rename_i b hb
      obtain ⟨q, hq, rfl⟩ := Option.map_eq_some_iff.mp h
      simp [Memory.bytesAt, Memory.byteAt_of_read epoch hb, ih hq]

/-- Reading one byte more at the end. -/
theorem Memory.readBytes_succ (m : Memory) (i n : Nat) :
    m.readBytes i (n + 1) = (m.readBytes i n).bind fun p => (m.read (i + n)).map fun b => p ++ [b] := by
  induction n generalizing i with
  | zero => cases h : m.read i <;> simp [Memory.readBytes, h]
  | succ n ih =>
    rw [Memory.readBytes, ih (i + 1), Memory.readBytes]
    cases m.read i with
    | none => rfl
    | some b =>
      have : i + 1 + n = i + (n + 1) := by omega
      rw [this]
      cases m.readBytes (i + 1) n with
      | none => rfl
      | some p => cases m.read (i + (n + 1)) <;> simp

/-- PBUF after one more payload byte (R72): what was there, and the byte. -/
theorem Memory.readBytes_write_append {m : Memory} {n : Nat} {p : List Byte} (b : Byte)
    (h : m.readBytes 0 n = some p) : (m.write n b).readBytes 0 (n + 1) = some (p ++ [b]) := by
  rw [Memory.readBytes_succ, Memory.readBytes_write_of_le m b (by omega), h]
  simp [Memory.read_write_same]

theorem Memory.readBytes_length {m : Memory} {i n : Nat} {p : List Byte} (h : m.readBytes i n = some p) :
    p.length = n := by
  induction n generalizing i p with
  | zero => simp only [Memory.readBytes, Option.some.injEq] at h; simp [← h]
  | succ n ih =>
    simp only [Memory.readBytes] at h
    split at h
    · cases h
    · obtain ⟨q, hq, rfl⟩ := Option.map_eq_some_iff.mp h
      simp [ih hq]

/-- A read skips an entry below it. -/
theorem Memory.readBytes_cons_of_lt (m : Memory) (c : Host.Cell) {i n : Nat} (h : c.1 < i) :
    Memory.readBytes (c :: m) i n = m.readBytes i n := by
  induction n generalizing i with
  | zero => rfl
  | succ n ih =>
    have hr : Memory.read (c :: m) i = m.read i := by simp [Memory.read]; omega
    simp only [Memory.readBytes, hr, ih (Nat.lt_succ_of_lt h)]

/-- PBUF filled with `bs` reads back as `bs`. -/
theorem Memory.readBytes_ofBytes (bs : List Byte) (i : Nat) :
    (Memory.ofBytes i bs).readBytes i bs.length = some bs := by
  induction bs generalizing i with
  | nil => rfl
  | cons b rest ih =>
    simp only [Memory.ofBytes, List.length_cons, Memory.readBytes, Memory.read, if_true]
    rw [Memory.readBytes_cons_of_lt _ _ (Nat.lt_succ_self i), ih]
    rfl

end Sys2Proof.Machine
end

