-- ==== Sys2Proof/Laws/Operands.lean ====
section
/-! SUPPORT. Shifting a byte into a register, as arithmetic and on the big-endian bytes (30_encoding.md R98). -/

namespace Sys2Proof.Machine

/-- A length byte shifted in is 256 times the register plus the byte, modulo 2^64. -/
theorem shiftInLen_toNat (l : U64) (b : Byte) : (shiftInLen l b).toNat = (l.toNat * 256 + b.toNat) % 2 ^ 64 := by
  have hb := b.isLt
  have hm : b.toNat % 18446744073709551616 = b.toNat := by omega
  have h : (shiftInLen l b).toNat = ((l.toNat <<< 8) % 2 ^ 64) ||| b.toNat := by
    simp [shiftInLen, BitVec.toNat_or, BitVec.toNat_shiftLeft, hm]
  have h2 : (l.toNat <<< 8) % 2 ^ 64 = (l.toNat % 2 ^ 56) <<< 8 := by
    rw [Nat.shiftLeft_eq, Nat.shiftLeft_eq]; omega
  rw [h, h2, ← Nat.shiftLeft_add_eq_or_of_lt hb, Nat.shiftLeft_eq]
  omega

/-- A checksum byte shifted in is 256 times the register plus the byte, modulo 2^32. -/
theorem shiftInCsum_toNat (c : U32) (b : Byte) : (shiftInCsum c b).toNat = (c.toNat * 256 + b.toNat) % 2 ^ 32 := by
  have hb := b.isLt
  have hm : b.toNat % 4294967296 = b.toNat := by omega
  have h : (shiftInCsum c b).toNat = ((c.toNat <<< 8) % 2 ^ 32) ||| b.toNat := by
    simp [shiftInCsum, BitVec.toNat_or, BitVec.toNat_shiftLeft, hm]
  have h2 : (c.toNat <<< 8) % 2 ^ 32 = (c.toNat % 2 ^ 24) <<< 8 := by
    rw [Nat.shiftLeft_eq, Nat.shiftLeft_eq]; omega
  rw [h, h2, ← Nat.shiftLeft_add_eq_or_of_lt hb, Nat.shiftLeft_eq]
  omega

/-- Shifting a byte in drops the most significant byte and appends the new one. -/
theorem be64_shiftInLen (l : U64) (b : Byte) : be64 (shiftInLen l b) = (be64 l).drop 1 ++ [b] := by
  have h := shiftInLen_toNat l b
  have hb := b.isLt
  simp only [be64, List.drop_succ_cons, List.drop_zero, List.cons_append, List.nil_append, List.cons.injEq, and_true]
  refine ⟨?_, ?_, ?_, ?_, ?_, ?_, ?_, ?_⟩ <;>
    (apply BitVec.eq_of_toNat_eq
     simp only [BitVec.extractLsb'_toNat, Nat.shiftRight_eq_div_pow, h]; omega)

theorem be32_shiftInCsum (c : U32) (b : Byte) : be32 (shiftInCsum c b) = (be32 c).drop 1 ++ [b] := by
  have h := shiftInCsum_toNat c b
  have hb := b.isLt
  simp only [be32, List.drop_succ_cons, List.drop_zero, List.cons_append, List.nil_append, List.cons.injEq, and_true]
  refine ⟨?_, ?_, ?_, ?_⟩ <;>
    (apply BitVec.eq_of_toNat_eq
     simp only [BitVec.extractLsb'_toNat, Nat.shiftRight_eq_div_pow, h]; omega)

/-- The eight bytes determine the value. -/
theorem be64_injective {a b : U64} (h : be64 a = be64 b) : a = b := by
  simp only [be64, List.cons.injEq, and_true] at h
  have ha := a.isLt
  have hb := b.isLt
  apply BitVec.eq_of_toNat_eq
  simp only [← BitVec.toNat_inj, BitVec.extractLsb'_toNat, Nat.shiftRight_eq_div_pow] at h
  omega

theorem be32_injective {a b : U32} (h : be32 a = be32 b) : a = b := by
  simp only [be32, List.cons.injEq, and_true] at h
  have ha := a.isLt
  have hb := b.isLt
  apply BitVec.eq_of_toNat_eq
  simp only [← BitVec.toNat_inj, BitVec.extractLsb'_toNat, Nat.shiftRight_eq_div_pow] at h
  omega

@[simp] theorem be64_length (v : U64) : (be64 v).length = 8 := rfl
@[simp] theorem be32_length (v : U32) : (be32 v).length = 4 := rfl

end Sys2Proof.Machine
end

