-- ==== Sys2Proof/Laws/State.lean ====
section
/-! SUPPORT. What each named update of the state leaves in each field, so that no proof unfolds a record update. -/

namespace Sys2Proof.Machine

variable (s : State)

/-! ### `State.frameRestart` (R130) -/

@[simp] theorem State.frameRestart_params : (s.frameRestart).params = s.params := rfl
@[simp] theorem State.frameRestart_rst : (s.frameRestart).rst = s.rst := rfl
@[simp] theorem State.frameRestart_phase : (s.frameRestart).phase = .len := rfl
@[simp] theorem State.frameRestart_frame : (s.frameRestart).frame = FrameRegs.init := rfl
@[simp] theorem State.frameRestart_pbuf : (s.frameRestart).pbuf = s.pbuf := rfl
@[simp] theorem State.frameRestart_pbufEpoch : (s.frameRestart).pbufEpoch = s.pbufEpoch := rfl
@[simp] theorem State.frameRestart_msgType : (s.frameRestart).msgType = s.msgType := rfl
@[simp] theorem State.frameRestart_msgRoute : (s.frameRestart).msgRoute = s.msgRoute := rfl
@[simp] theorem State.frameRestart_msgData : (s.frameRestart).msgData = s.msgData := rfl
@[simp] theorem State.frameRestart_err : (s.frameRestart).err = s.err := rfl
@[simp] theorem State.frameRestart_ctrlEn : (s.frameRestart).ctrlEn = s.ctrlEn := rfl
@[simp] theorem State.frameRestart_ctrlIe : (s.frameRestart).ctrlIe = s.ctrlIe := rfl
@[simp] theorem State.frameRestart_cnt : (s.frameRestart).cnt = s.cnt := rfl
@[simp] theorem State.frameRestart_csrResp : (s.frameRestart).csrResp = s.csrResp := rfl
@[simp] theorem State.frameRestart_env : (s.frameRestart).env = s.env := rfl

/-! ### `State.raise` (R270) -/

@[simp] theorem State.raise_params (e : ErrCode) (seg : Segment) (bd : Bool) : (s.raise e seg bd).params = s.params := rfl
@[simp] theorem State.raise_rst (e : ErrCode) (seg : Segment) (bd : Bool) : (s.raise e seg bd).rst = s.rst := rfl
@[simp] theorem State.raise_phase (e : ErrCode) (seg : Segment) (bd : Bool) : (s.raise e seg bd).phase = .error := rfl
@[simp] theorem State.raise_frame (e : ErrCode) (seg : Segment) (bd : Bool) : (s.raise e seg bd).frame = s.frame := rfl
@[simp] theorem State.raise_pbuf (e : ErrCode) (seg : Segment) (bd : Bool) : (s.raise e seg bd).pbuf = s.pbuf := rfl
@[simp] theorem State.raise_pbufEpoch (e : ErrCode) (seg : Segment) (bd : Bool) : (s.raise e seg bd).pbufEpoch = s.pbufEpoch := rfl
@[simp] theorem State.raise_msgType (e : ErrCode) (seg : Segment) (bd : Bool) : (s.raise e seg bd).msgType = s.msgType := rfl
@[simp] theorem State.raise_msgRoute (e : ErrCode) (seg : Segment) (bd : Bool) : (s.raise e seg bd).msgRoute = s.msgRoute := rfl
@[simp] theorem State.raise_msgData (e : ErrCode) (seg : Segment) (bd : Bool) : (s.raise e seg bd).msgData = s.msgData := rfl
@[simp] theorem State.raise_err (e : ErrCode) (seg : Segment) (bd : Bool) : (s.raise e seg bd).err = ⟨e, seg, bd⟩ := rfl
@[simp] theorem State.raise_ctrlEn (e : ErrCode) (seg : Segment) (bd : Bool) : (s.raise e seg bd).ctrlEn = s.ctrlEn := rfl
@[simp] theorem State.raise_ctrlIe (e : ErrCode) (seg : Segment) (bd : Bool) : (s.raise e seg bd).ctrlIe = s.ctrlIe := rfl
@[simp] theorem State.raise_cnt (e : ErrCode) (seg : Segment) (bd : Bool) : (s.raise e seg bd).cnt = s.cnt.count e := rfl
@[simp] theorem State.raise_csrResp (e : ErrCode) (seg : Segment) (bd : Bool) : (s.raise e seg bd).csrResp = s.csrResp := rfl
@[simp] theorem State.raise_env (e : ErrCode) (seg : Segment) (bd : Bool) : (s.raise e seg bd).env = s.env := rfl

/-! ### `State.raisePlain` (R270) -/

@[simp] theorem State.raisePlain_params (e : ErrCode) : (s.raisePlain e).params = s.params := rfl
@[simp] theorem State.raisePlain_rst (e : ErrCode) : (s.raisePlain e).rst = s.rst := rfl
@[simp] theorem State.raisePlain_phase (e : ErrCode) : (s.raisePlain e).phase = .error := rfl
@[simp] theorem State.raisePlain_frame (e : ErrCode) : (s.raisePlain e).frame = s.frame := rfl
@[simp] theorem State.raisePlain_pbuf (e : ErrCode) : (s.raisePlain e).pbuf = s.pbuf := rfl
@[simp] theorem State.raisePlain_pbufEpoch (e : ErrCode) : (s.raisePlain e).pbufEpoch = s.pbufEpoch := rfl
@[simp] theorem State.raisePlain_msgType (e : ErrCode) : (s.raisePlain e).msgType = s.msgType := rfl
@[simp] theorem State.raisePlain_msgRoute (e : ErrCode) : (s.raisePlain e).msgRoute = s.msgRoute := rfl
@[simp] theorem State.raisePlain_msgData (e : ErrCode) : (s.raisePlain e).msgData = s.msgData := rfl
@[simp] theorem State.raisePlain_err (e : ErrCode) : (s.raisePlain e).err = ⟨e, .length, false⟩ := rfl
@[simp] theorem State.raisePlain_ctrlEn (e : ErrCode) : (s.raisePlain e).ctrlEn = s.ctrlEn := rfl
@[simp] theorem State.raisePlain_ctrlIe (e : ErrCode) : (s.raisePlain e).ctrlIe = s.ctrlIe := rfl
@[simp] theorem State.raisePlain_cnt (e : ErrCode) : (s.raisePlain e).cnt = s.cnt.count e := rfl
@[simp] theorem State.raisePlain_csrResp (e : ErrCode) : (s.raisePlain e).csrResp = s.csrResp := rfl
@[simp] theorem State.raisePlain_env (e : ErrCode) : (s.raisePlain e).env = s.env := rfl

/-! ### `State.clear` (R238) -/

@[simp] theorem State.clear_params : (s.clear).params = s.params := rfl
@[simp] theorem State.clear_rst : (s.clear).rst = s.rst := rfl
@[simp] theorem State.clear_phase : (s.clear).phase = .len := rfl
@[simp] theorem State.clear_frame : (s.clear).frame = FrameRegs.init := rfl
@[simp] theorem State.clear_pbuf : (s.clear).pbuf = s.pbuf := rfl
@[simp] theorem State.clear_pbufEpoch : (s.clear).pbufEpoch = s.pbufEpoch := rfl
@[simp] theorem State.clear_msgType : (s.clear).msgType = s.msgType := rfl
@[simp] theorem State.clear_msgRoute : (s.clear).msgRoute = s.msgRoute := rfl
@[simp] theorem State.clear_msgData : (s.clear).msgData = [] := rfl
@[simp] theorem State.clear_err : (s.clear).err = ErrRecord.clear := rfl
@[simp] theorem State.clear_ctrlEn : (s.clear).ctrlEn = s.ctrlEn := rfl
@[simp] theorem State.clear_ctrlIe : (s.clear).ctrlIe = s.ctrlIe := rfl
@[simp] theorem State.clear_cnt : (s.clear).cnt = s.cnt := rfl
@[simp] theorem State.clear_csrResp : (s.clear).csrResp = s.csrResp := rfl
@[simp] theorem State.clear_env : (s.clear).env = s.env := rfl

/-! ### `State.counterClear` (R239) -/

@[simp] theorem State.counterClear_params : (s.counterClear).params = s.params := rfl
@[simp] theorem State.counterClear_rst : (s.counterClear).rst = s.rst := rfl
@[simp] theorem State.counterClear_phase : (s.counterClear).phase = s.phase := rfl
@[simp] theorem State.counterClear_frame : (s.counterClear).frame = s.frame := rfl
@[simp] theorem State.counterClear_pbuf : (s.counterClear).pbuf = s.pbuf := rfl
@[simp] theorem State.counterClear_pbufEpoch : (s.counterClear).pbufEpoch = s.pbufEpoch := rfl
@[simp] theorem State.counterClear_msgType : (s.counterClear).msgType = s.msgType := rfl
@[simp] theorem State.counterClear_msgRoute : (s.counterClear).msgRoute = s.msgRoute := rfl
@[simp] theorem State.counterClear_msgData : (s.counterClear).msgData = s.msgData := rfl
@[simp] theorem State.counterClear_err : (s.counterClear).err = s.err := rfl
@[simp] theorem State.counterClear_ctrlEn : (s.counterClear).ctrlEn = s.ctrlEn := rfl
@[simp] theorem State.counterClear_ctrlIe : (s.counterClear).ctrlIe = s.ctrlIe := rfl
@[simp] theorem State.counterClear_cnt : (s.counterClear).cnt = Counters.zero := rfl
@[simp] theorem State.counterClear_csrResp : (s.counterClear).csrResp = s.csrResp := rfl
@[simp] theorem State.counterClear_env : (s.counterClear).env = s.env := rfl

/-! ### `State.setCtrl` (R236) -/

@[simp] theorem State.setCtrl_params (en : Bool) (ie : Bool) : (s.setCtrl en ie).params = s.params := rfl
@[simp] theorem State.setCtrl_rst (en : Bool) (ie : Bool) : (s.setCtrl en ie).rst = s.rst := rfl
@[simp] theorem State.setCtrl_phase (en : Bool) (ie : Bool) : (s.setCtrl en ie).phase = s.phase := rfl
@[simp] theorem State.setCtrl_frame (en : Bool) (ie : Bool) : (s.setCtrl en ie).frame = s.frame := rfl
@[simp] theorem State.setCtrl_pbuf (en : Bool) (ie : Bool) : (s.setCtrl en ie).pbuf = s.pbuf := rfl
@[simp] theorem State.setCtrl_pbufEpoch (en : Bool) (ie : Bool) : (s.setCtrl en ie).pbufEpoch = s.pbufEpoch := rfl
@[simp] theorem State.setCtrl_msgType (en : Bool) (ie : Bool) : (s.setCtrl en ie).msgType = s.msgType := rfl
@[simp] theorem State.setCtrl_msgRoute (en : Bool) (ie : Bool) : (s.setCtrl en ie).msgRoute = s.msgRoute := rfl
@[simp] theorem State.setCtrl_msgData (en : Bool) (ie : Bool) : (s.setCtrl en ie).msgData = s.msgData := rfl
@[simp] theorem State.setCtrl_err (en : Bool) (ie : Bool) : (s.setCtrl en ie).err = s.err := rfl
@[simp] theorem State.setCtrl_ctrlEn (en : Bool) (ie : Bool) : (s.setCtrl en ie).ctrlEn = en := rfl
@[simp] theorem State.setCtrl_ctrlIe (en : Bool) (ie : Bool) : (s.setCtrl en ie).ctrlIe = ie := rfl
@[simp] theorem State.setCtrl_cnt (en : Bool) (ie : Bool) : (s.setCtrl en ie).cnt = s.cnt := rfl
@[simp] theorem State.setCtrl_csrResp (en : Bool) (ie : Bool) : (s.setCtrl en ie).csrResp = s.csrResp := rfl
@[simp] theorem State.setCtrl_env (en : Bool) (ie : Bool) : (s.setCtrl en ie).env = s.env := rfl

/-! ### `State.setPhase` (R15) -/

@[simp] theorem State.setPhase_params (p : Phase) : (s.setPhase p).params = s.params := rfl
@[simp] theorem State.setPhase_rst (p : Phase) : (s.setPhase p).rst = s.rst := rfl
@[simp] theorem State.setPhase_phase (p : Phase) : (s.setPhase p).phase = p := rfl
@[simp] theorem State.setPhase_frame (p : Phase) : (s.setPhase p).frame = s.frame := rfl
@[simp] theorem State.setPhase_pbuf (p : Phase) : (s.setPhase p).pbuf = s.pbuf := rfl
@[simp] theorem State.setPhase_pbufEpoch (p : Phase) : (s.setPhase p).pbufEpoch = s.pbufEpoch := rfl
@[simp] theorem State.setPhase_msgType (p : Phase) : (s.setPhase p).msgType = s.msgType := rfl
@[simp] theorem State.setPhase_msgRoute (p : Phase) : (s.setPhase p).msgRoute = s.msgRoute := rfl
@[simp] theorem State.setPhase_msgData (p : Phase) : (s.setPhase p).msgData = s.msgData := rfl
@[simp] theorem State.setPhase_err (p : Phase) : (s.setPhase p).err = s.err := rfl
@[simp] theorem State.setPhase_ctrlEn (p : Phase) : (s.setPhase p).ctrlEn = s.ctrlEn := rfl
@[simp] theorem State.setPhase_ctrlIe (p : Phase) : (s.setPhase p).ctrlIe = s.ctrlIe := rfl
@[simp] theorem State.setPhase_cnt (p : Phase) : (s.setPhase p).cnt = s.cnt := rfl
@[simp] theorem State.setPhase_csrResp (p : Phase) : (s.setPhase p).csrResp = s.csrResp := rfl
@[simp] theorem State.setPhase_env (p : Phase) : (s.setPhase p).env = s.env := rfl

/-! ### `State.acceptLen` (R121) -/

@[simp] theorem State.acceptLen_params (b : Byte) : (s.acceptLen b).params = s.params := rfl
@[simp] theorem State.acceptLen_rst (b : Byte) : (s.acceptLen b).rst = s.rst := rfl
@[simp] theorem State.acceptLen_phase (b : Byte) : (s.acceptLen b).phase = s.phase := rfl
@[simp] theorem State.acceptLen_frame (b : Byte) : (s.acceptLen b).frame = { s.frame with lenReg := shiftInLen s.frame.lenReg b, crcReg := crcStep s.frame.crcReg b, lenCnt := s.frame.lenCnt + 1#4 } := rfl
@[simp] theorem State.acceptLen_pbuf (b : Byte) : (s.acceptLen b).pbuf = s.pbuf := rfl
@[simp] theorem State.acceptLen_pbufEpoch (b : Byte) : (s.acceptLen b).pbufEpoch = s.pbufEpoch := rfl
@[simp] theorem State.acceptLen_msgType (b : Byte) : (s.acceptLen b).msgType = s.msgType := rfl
@[simp] theorem State.acceptLen_msgRoute (b : Byte) : (s.acceptLen b).msgRoute = s.msgRoute := rfl
@[simp] theorem State.acceptLen_msgData (b : Byte) : (s.acceptLen b).msgData = s.msgData := rfl
@[simp] theorem State.acceptLen_err (b : Byte) : (s.acceptLen b).err = s.err := rfl
@[simp] theorem State.acceptLen_ctrlEn (b : Byte) : (s.acceptLen b).ctrlEn = s.ctrlEn := rfl
@[simp] theorem State.acceptLen_ctrlIe (b : Byte) : (s.acceptLen b).ctrlIe = s.ctrlIe := rfl
@[simp] theorem State.acceptLen_cnt (b : Byte) : (s.acceptLen b).cnt = s.cnt := rfl
@[simp] theorem State.acceptLen_csrResp (b : Byte) : (s.acceptLen b).csrResp = s.csrResp := rfl
@[simp] theorem State.acceptLen_env (b : Byte) : (s.acceptLen b).env = s.env := rfl

/-! ### `State.acceptPayload` (R124) -/

@[simp] theorem State.acceptPayload_params (b : Byte) : (s.acceptPayload b).params = s.params := rfl
@[simp] theorem State.acceptPayload_rst (b : Byte) : (s.acceptPayload b).rst = s.rst := rfl
@[simp] theorem State.acceptPayload_phase (b : Byte) : (s.acceptPayload b).phase = s.phase := rfl
@[simp] theorem State.acceptPayload_frame (b : Byte) : (s.acceptPayload b).frame = { s.frame with crcReg := crcStep s.frame.crcReg b, payCnt := s.frame.payCnt + 1#64 } := rfl
@[simp] theorem State.acceptPayload_pbuf (b : Byte) : (s.acceptPayload b).pbuf = s.pbuf.write s.frame.payCnt.toNat b := rfl
@[simp] theorem State.acceptPayload_pbufEpoch (b : Byte) : (s.acceptPayload b).pbufEpoch = s.pbufEpoch := rfl
@[simp] theorem State.acceptPayload_msgType (b : Byte) : (s.acceptPayload b).msgType = s.msgType := rfl
@[simp] theorem State.acceptPayload_msgRoute (b : Byte) : (s.acceptPayload b).msgRoute = s.msgRoute := rfl
@[simp] theorem State.acceptPayload_msgData (b : Byte) : (s.acceptPayload b).msgData = s.msgData := rfl
@[simp] theorem State.acceptPayload_err (b : Byte) : (s.acceptPayload b).err = s.err := rfl
@[simp] theorem State.acceptPayload_ctrlEn (b : Byte) : (s.acceptPayload b).ctrlEn = s.ctrlEn := rfl
@[simp] theorem State.acceptPayload_ctrlIe (b : Byte) : (s.acceptPayload b).ctrlIe = s.ctrlIe := rfl
@[simp] theorem State.acceptPayload_cnt (b : Byte) : (s.acceptPayload b).cnt = s.cnt := rfl
@[simp] theorem State.acceptPayload_csrResp (b : Byte) : (s.acceptPayload b).csrResp = s.csrResp := rfl
@[simp] theorem State.acceptPayload_env (b : Byte) : (s.acceptPayload b).env = s.env := rfl

/-! ### `State.acceptCsum` (R126) -/

@[simp] theorem State.acceptCsum_params (b : Byte) : (s.acceptCsum b).params = s.params := rfl
@[simp] theorem State.acceptCsum_rst (b : Byte) : (s.acceptCsum b).rst = s.rst := rfl
@[simp] theorem State.acceptCsum_phase (b : Byte) : (s.acceptCsum b).phase = s.phase := rfl
@[simp] theorem State.acceptCsum_frame (b : Byte) : (s.acceptCsum b).frame = { s.frame with csumReg := shiftInCsum s.frame.csumReg b, csumCnt := s.frame.csumCnt + 1#3 } := rfl
@[simp] theorem State.acceptCsum_pbuf (b : Byte) : (s.acceptCsum b).pbuf = s.pbuf := rfl
@[simp] theorem State.acceptCsum_pbufEpoch (b : Byte) : (s.acceptCsum b).pbufEpoch = s.pbufEpoch := rfl
@[simp] theorem State.acceptCsum_msgType (b : Byte) : (s.acceptCsum b).msgType = s.msgType := rfl
@[simp] theorem State.acceptCsum_msgRoute (b : Byte) : (s.acceptCsum b).msgRoute = s.msgRoute := rfl
@[simp] theorem State.acceptCsum_msgData (b : Byte) : (s.acceptCsum b).msgData = s.msgData := rfl
@[simp] theorem State.acceptCsum_err (b : Byte) : (s.acceptCsum b).err = s.err := rfl
@[simp] theorem State.acceptCsum_ctrlEn (b : Byte) : (s.acceptCsum b).ctrlEn = s.ctrlEn := rfl
@[simp] theorem State.acceptCsum_ctrlIe (b : Byte) : (s.acceptCsum b).ctrlIe = s.ctrlIe := rfl
@[simp] theorem State.acceptCsum_cnt (b : Byte) : (s.acceptCsum b).cnt = s.cnt := rfl
@[simp] theorem State.acceptCsum_csrResp (b : Byte) : (s.acceptCsum b).csrResp = s.csrResp := rfl
@[simp] theorem State.acceptCsum_env (b : Byte) : (s.acceptCsum b).env = s.env := rfl

/-! ### `State.latchMessage` (R189) -/

@[simp] theorem State.latchMessage_params (t : Byte) (d : List Byte) : (s.latchMessage t d).params = s.params := rfl
@[simp] theorem State.latchMessage_rst (t : Byte) (d : List Byte) : (s.latchMessage t d).rst = s.rst := rfl
@[simp] theorem State.latchMessage_phase (t : Byte) (d : List Byte) : (s.latchMessage t d).phase = .deliver := rfl
@[simp] theorem State.latchMessage_frame (t : Byte) (d : List Byte) : (s.latchMessage t d).frame = s.frame := rfl
@[simp] theorem State.latchMessage_pbuf (t : Byte) (d : List Byte) : (s.latchMessage t d).pbuf = s.pbuf := rfl
@[simp] theorem State.latchMessage_pbufEpoch (t : Byte) (d : List Byte) : (s.latchMessage t d).pbufEpoch = s.pbufEpoch := rfl
@[simp] theorem State.latchMessage_msgType (t : Byte) (d : List Byte) : (s.latchMessage t d).msgType = t := rfl
@[simp] theorem State.latchMessage_msgRoute (t : Byte) (d : List Byte) : (s.latchMessage t d).msgRoute = s.msgRoute := rfl
@[simp] theorem State.latchMessage_msgData (t : Byte) (d : List Byte) : (s.latchMessage t d).msgData = d := rfl
@[simp] theorem State.latchMessage_err (t : Byte) (d : List Byte) : (s.latchMessage t d).err = s.err := rfl
@[simp] theorem State.latchMessage_ctrlEn (t : Byte) (d : List Byte) : (s.latchMessage t d).ctrlEn = s.ctrlEn := rfl
@[simp] theorem State.latchMessage_ctrlIe (t : Byte) (d : List Byte) : (s.latchMessage t d).ctrlIe = s.ctrlIe := rfl
@[simp] theorem State.latchMessage_cnt (t : Byte) (d : List Byte) : (s.latchMessage t d).cnt = s.cnt := rfl
@[simp] theorem State.latchMessage_csrResp (t : Byte) (d : List Byte) : (s.latchMessage t d).csrResp = s.csrResp := rfl
@[simp] theorem State.latchMessage_env (t : Byte) (d : List Byte) : (s.latchMessage t d).env = s.env := rfl

/-! ### `State.setRoute` (R210) -/

@[simp] theorem State.setRoute_params (r : Route) : (s.setRoute r).params = s.params := rfl
@[simp] theorem State.setRoute_rst (r : Route) : (s.setRoute r).rst = s.rst := rfl
@[simp] theorem State.setRoute_phase (r : Route) : (s.setRoute r).phase = s.phase := rfl
@[simp] theorem State.setRoute_frame (r : Route) : (s.setRoute r).frame = s.frame := rfl
@[simp] theorem State.setRoute_pbuf (r : Route) : (s.setRoute r).pbuf = s.pbuf := rfl
@[simp] theorem State.setRoute_pbufEpoch (r : Route) : (s.setRoute r).pbufEpoch = s.pbufEpoch := rfl
@[simp] theorem State.setRoute_msgType (r : Route) : (s.setRoute r).msgType = s.msgType := rfl
@[simp] theorem State.setRoute_msgRoute (r : Route) : (s.setRoute r).msgRoute = r := rfl
@[simp] theorem State.setRoute_msgData (r : Route) : (s.setRoute r).msgData = s.msgData := rfl
@[simp] theorem State.setRoute_err (r : Route) : (s.setRoute r).err = s.err := rfl
@[simp] theorem State.setRoute_ctrlEn (r : Route) : (s.setRoute r).ctrlEn = s.ctrlEn := rfl
@[simp] theorem State.setRoute_ctrlIe (r : Route) : (s.setRoute r).ctrlIe = s.ctrlIe := rfl
@[simp] theorem State.setRoute_cnt (r : Route) : (s.setRoute r).cnt = s.cnt := rfl
@[simp] theorem State.setRoute_csrResp (r : Route) : (s.setRoute r).csrResp = s.csrResp := rfl
@[simp] theorem State.setRoute_env (r : Route) : (s.setRoute r).env = s.env := rfl

/-! ### `State.emit` (R214) -/

@[simp] theorem State.emit_params : (s.emit).params = s.params := rfl
@[simp] theorem State.emit_rst : (s.emit).rst = s.rst := rfl
@[simp] theorem State.emit_phase : (s.emit).phase = s.phase := rfl
@[simp] theorem State.emit_frame : (s.emit).frame = s.frame := rfl
@[simp] theorem State.emit_pbuf : (s.emit).pbuf = s.pbuf := rfl
@[simp] theorem State.emit_pbufEpoch : (s.emit).pbufEpoch = s.pbufEpoch := rfl
@[simp] theorem State.emit_msgType : (s.emit).msgType = s.msgType := rfl
@[simp] theorem State.emit_msgRoute : (s.emit).msgRoute = s.msgRoute := rfl
@[simp] theorem State.emit_msgData : (s.emit).msgData = s.msgData := rfl
@[simp] theorem State.emit_err : (s.emit).err = s.err := rfl
@[simp] theorem State.emit_ctrlEn : (s.emit).ctrlEn = s.ctrlEn := rfl
@[simp] theorem State.emit_ctrlIe : (s.emit).ctrlIe = s.ctrlIe := rfl
@[simp] theorem State.emit_cnt : (s.emit).cnt = s.cnt := rfl
@[simp] theorem State.emit_csrResp : (s.emit).csrResp = s.csrResp := rfl
@[simp] theorem State.emit_env : (s.emit).env = { s.env with received := s.env.received ++ [⟨s.msgRoute, s.msgType, s.msgData⟩] } := rfl

/-! ### `State.countOk` (R214) -/

@[simp] theorem State.countOk_params : (s.countOk).params = s.params := rfl
@[simp] theorem State.countOk_rst : (s.countOk).rst = s.rst := rfl
@[simp] theorem State.countOk_phase : (s.countOk).phase = s.phase := rfl
@[simp] theorem State.countOk_frame : (s.countOk).frame = s.frame := rfl
@[simp] theorem State.countOk_pbuf : (s.countOk).pbuf = s.pbuf := rfl
@[simp] theorem State.countOk_pbufEpoch : (s.countOk).pbufEpoch = s.pbufEpoch := rfl
@[simp] theorem State.countOk_msgType : (s.countOk).msgType = s.msgType := rfl
@[simp] theorem State.countOk_msgRoute : (s.countOk).msgRoute = s.msgRoute := rfl
@[simp] theorem State.countOk_msgData : (s.countOk).msgData = s.msgData := rfl
@[simp] theorem State.countOk_err : (s.countOk).err = s.err := rfl
@[simp] theorem State.countOk_ctrlEn : (s.countOk).ctrlEn = s.ctrlEn := rfl
@[simp] theorem State.countOk_ctrlIe : (s.countOk).ctrlIe = s.ctrlIe := rfl
@[simp] theorem State.countOk_cnt : (s.countOk).cnt = { s.cnt with ok := s.cnt.ok + 1#32 } := rfl
@[simp] theorem State.countOk_csrResp : (s.countOk).csrResp = s.csrResp := rfl
@[simp] theorem State.countOk_env : (s.countOk).env = s.env := rfl

/-! ### `State.respond` (R230) -/

@[simp] theorem State.respond_params (r : CsrResponse) : (s.respond r).params = s.params := rfl
@[simp] theorem State.respond_rst (r : CsrResponse) : (s.respond r).rst = s.rst := rfl
@[simp] theorem State.respond_phase (r : CsrResponse) : (s.respond r).phase = s.phase := rfl
@[simp] theorem State.respond_frame (r : CsrResponse) : (s.respond r).frame = s.frame := rfl
@[simp] theorem State.respond_pbuf (r : CsrResponse) : (s.respond r).pbuf = s.pbuf := rfl
@[simp] theorem State.respond_pbufEpoch (r : CsrResponse) : (s.respond r).pbufEpoch = s.pbufEpoch := rfl
@[simp] theorem State.respond_msgType (r : CsrResponse) : (s.respond r).msgType = s.msgType := rfl
@[simp] theorem State.respond_msgRoute (r : CsrResponse) : (s.respond r).msgRoute = s.msgRoute := rfl
@[simp] theorem State.respond_msgData (r : CsrResponse) : (s.respond r).msgData = s.msgData := rfl
@[simp] theorem State.respond_err (r : CsrResponse) : (s.respond r).err = s.err := rfl
@[simp] theorem State.respond_ctrlEn (r : CsrResponse) : (s.respond r).ctrlEn = s.ctrlEn := rfl
@[simp] theorem State.respond_ctrlIe (r : CsrResponse) : (s.respond r).ctrlIe = s.ctrlIe := rfl
@[simp] theorem State.respond_cnt (r : CsrResponse) : (s.respond r).cnt = s.cnt := rfl
@[simp] theorem State.respond_csrResp (r : CsrResponse) : (s.respond r).csrResp = some r := rfl
@[simp] theorem State.respond_env (r : CsrResponse) : (s.respond r).env = s.env := rfl

/-! ### `State.blockReset` (R290) -/

@[simp] theorem State.blockReset_params (l : Bool) : (s.blockReset l).params = s.params := rfl
@[simp] theorem State.blockReset_rst (l : Bool) : (s.blockReset l).rst = l := rfl
@[simp] theorem State.blockReset_phase (l : Bool) : (s.blockReset l).phase = .len := rfl
@[simp] theorem State.blockReset_frame (l : Bool) : (s.blockReset l).frame = FrameRegs.init := rfl
@[simp] theorem State.blockReset_pbuf (l : Bool) : (s.blockReset l).pbuf = [] := rfl
@[simp] theorem State.blockReset_pbufEpoch (l : Bool) : (s.blockReset l).pbufEpoch = s.pbufEpoch + 1 := rfl
@[simp] theorem State.blockReset_msgType (l : Bool) : (s.blockReset l).msgType = 0 := rfl
@[simp] theorem State.blockReset_msgRoute (l : Bool) : (s.blockReset l).msgRoute = .block := rfl
@[simp] theorem State.blockReset_msgData (l : Bool) : (s.blockReset l).msgData = [] := rfl
@[simp] theorem State.blockReset_err (l : Bool) : (s.blockReset l).err = ErrRecord.clear := rfl
@[simp] theorem State.blockReset_ctrlEn (l : Bool) : (s.blockReset l).ctrlEn = true := rfl
@[simp] theorem State.blockReset_ctrlIe (l : Bool) : (s.blockReset l).ctrlIe = false := rfl
@[simp] theorem State.blockReset_cnt (l : Bool) : (s.blockReset l).cnt = Counters.zero := rfl
@[simp] theorem State.blockReset_csrResp (l : Bool) : (s.blockReset l).csrResp = none := rfl
@[simp] theorem State.blockReset_env (l : Bool) : (s.blockReset l).env = s.env := rfl

/-! ### `State.setTurns` (turn order) -/

@[simp] theorem State.setTurns_params (ts : List Turn) : (s.setTurns ts).params = s.params := rfl
@[simp] theorem State.setTurns_rst (ts : List Turn) : (s.setTurns ts).rst = s.rst := rfl
@[simp] theorem State.setTurns_phase (ts : List Turn) : (s.setTurns ts).phase = s.phase := rfl
@[simp] theorem State.setTurns_frame (ts : List Turn) : (s.setTurns ts).frame = s.frame := rfl
@[simp] theorem State.setTurns_pbuf (ts : List Turn) : (s.setTurns ts).pbuf = s.pbuf := rfl
@[simp] theorem State.setTurns_pbufEpoch (ts : List Turn) : (s.setTurns ts).pbufEpoch = s.pbufEpoch := rfl
@[simp] theorem State.setTurns_msgType (ts : List Turn) : (s.setTurns ts).msgType = s.msgType := rfl
@[simp] theorem State.setTurns_msgRoute (ts : List Turn) : (s.setTurns ts).msgRoute = s.msgRoute := rfl
@[simp] theorem State.setTurns_msgData (ts : List Turn) : (s.setTurns ts).msgData = s.msgData := rfl
@[simp] theorem State.setTurns_err (ts : List Turn) : (s.setTurns ts).err = s.err := rfl
@[simp] theorem State.setTurns_ctrlEn (ts : List Turn) : (s.setTurns ts).ctrlEn = s.ctrlEn := rfl
@[simp] theorem State.setTurns_ctrlIe (ts : List Turn) : (s.setTurns ts).ctrlIe = s.ctrlIe := rfl
@[simp] theorem State.setTurns_cnt (ts : List Turn) : (s.setTurns ts).cnt = s.cnt := rfl
@[simp] theorem State.setTurns_csrResp (ts : List Turn) : (s.setTurns ts).csrResp = s.csrResp := rfl
@[simp] theorem State.setTurns_env (ts : List Turn) : (s.setTurns ts).env = { s.env with turns := ts } := rfl

/-! ### `State.setStream` (R71) -/

@[simp] theorem State.setStream_params (ws : List (BitVec 9)) : (s.setStream ws).params = s.params := rfl
@[simp] theorem State.setStream_rst (ws : List (BitVec 9)) : (s.setStream ws).rst = s.rst := rfl
@[simp] theorem State.setStream_phase (ws : List (BitVec 9)) : (s.setStream ws).phase = s.phase := rfl
@[simp] theorem State.setStream_frame (ws : List (BitVec 9)) : (s.setStream ws).frame = s.frame := rfl
@[simp] theorem State.setStream_pbuf (ws : List (BitVec 9)) : (s.setStream ws).pbuf = s.pbuf := rfl
@[simp] theorem State.setStream_pbufEpoch (ws : List (BitVec 9)) : (s.setStream ws).pbufEpoch = s.pbufEpoch := rfl
@[simp] theorem State.setStream_msgType (ws : List (BitVec 9)) : (s.setStream ws).msgType = s.msgType := rfl
@[simp] theorem State.setStream_msgRoute (ws : List (BitVec 9)) : (s.setStream ws).msgRoute = s.msgRoute := rfl
@[simp] theorem State.setStream_msgData (ws : List (BitVec 9)) : (s.setStream ws).msgData = s.msgData := rfl
@[simp] theorem State.setStream_err (ws : List (BitVec 9)) : (s.setStream ws).err = s.err := rfl
@[simp] theorem State.setStream_ctrlEn (ws : List (BitVec 9)) : (s.setStream ws).ctrlEn = s.ctrlEn := rfl
@[simp] theorem State.setStream_ctrlIe (ws : List (BitVec 9)) : (s.setStream ws).ctrlIe = s.ctrlIe := rfl
@[simp] theorem State.setStream_cnt (ws : List (BitVec 9)) : (s.setStream ws).cnt = s.cnt := rfl
@[simp] theorem State.setStream_csrResp (ws : List (BitVec 9)) : (s.setStream ws).csrResp = s.csrResp := rfl
@[simp] theorem State.setStream_env (ws : List (BitVec 9)) : (s.setStream ws).env = { s.env with stream := ws } := rfl

/-! ### `State.setRequests` (R53) -/

@[simp] theorem State.setRequests_params (rs : List CsrRequest) : (s.setRequests rs).params = s.params := rfl
@[simp] theorem State.setRequests_rst (rs : List CsrRequest) : (s.setRequests rs).rst = s.rst := rfl
@[simp] theorem State.setRequests_phase (rs : List CsrRequest) : (s.setRequests rs).phase = s.phase := rfl
@[simp] theorem State.setRequests_frame (rs : List CsrRequest) : (s.setRequests rs).frame = s.frame := rfl
@[simp] theorem State.setRequests_pbuf (rs : List CsrRequest) : (s.setRequests rs).pbuf = s.pbuf := rfl
@[simp] theorem State.setRequests_pbufEpoch (rs : List CsrRequest) : (s.setRequests rs).pbufEpoch = s.pbufEpoch := rfl
@[simp] theorem State.setRequests_msgType (rs : List CsrRequest) : (s.setRequests rs).msgType = s.msgType := rfl
@[simp] theorem State.setRequests_msgRoute (rs : List CsrRequest) : (s.setRequests rs).msgRoute = s.msgRoute := rfl
@[simp] theorem State.setRequests_msgData (rs : List CsrRequest) : (s.setRequests rs).msgData = s.msgData := rfl
@[simp] theorem State.setRequests_err (rs : List CsrRequest) : (s.setRequests rs).err = s.err := rfl
@[simp] theorem State.setRequests_ctrlEn (rs : List CsrRequest) : (s.setRequests rs).ctrlEn = s.ctrlEn := rfl
@[simp] theorem State.setRequests_ctrlIe (rs : List CsrRequest) : (s.setRequests rs).ctrlIe = s.ctrlIe := rfl
@[simp] theorem State.setRequests_cnt (rs : List CsrRequest) : (s.setRequests rs).cnt = s.cnt := rfl
@[simp] theorem State.setRequests_csrResp (rs : List CsrRequest) : (s.setRequests rs).csrResp = s.csrResp := rfl
@[simp] theorem State.setRequests_env (rs : List CsrRequest) : (s.setRequests rs).env = { s.env with requests := rs } := rfl

/-! ### `State.setReady` (R52) -/

@[simp] theorem State.setReady_params (v : BitVec 4) : (s.setReady v).params = s.params := rfl
@[simp] theorem State.setReady_rst (v : BitVec 4) : (s.setReady v).rst = s.rst := rfl
@[simp] theorem State.setReady_phase (v : BitVec 4) : (s.setReady v).phase = s.phase := rfl
@[simp] theorem State.setReady_frame (v : BitVec 4) : (s.setReady v).frame = s.frame := rfl
@[simp] theorem State.setReady_pbuf (v : BitVec 4) : (s.setReady v).pbuf = s.pbuf := rfl
@[simp] theorem State.setReady_pbufEpoch (v : BitVec 4) : (s.setReady v).pbufEpoch = s.pbufEpoch := rfl
@[simp] theorem State.setReady_msgType (v : BitVec 4) : (s.setReady v).msgType = s.msgType := rfl
@[simp] theorem State.setReady_msgRoute (v : BitVec 4) : (s.setReady v).msgRoute = s.msgRoute := rfl
@[simp] theorem State.setReady_msgData (v : BitVec 4) : (s.setReady v).msgData = s.msgData := rfl
@[simp] theorem State.setReady_err (v : BitVec 4) : (s.setReady v).err = s.err := rfl
@[simp] theorem State.setReady_ctrlEn (v : BitVec 4) : (s.setReady v).ctrlEn = s.ctrlEn := rfl
@[simp] theorem State.setReady_ctrlIe (v : BitVec 4) : (s.setReady v).ctrlIe = s.ctrlIe := rfl
@[simp] theorem State.setReady_cnt (v : BitVec 4) : (s.setReady v).cnt = s.cnt := rfl
@[simp] theorem State.setReady_csrResp (v : BitVec 4) : (s.setReady v).csrResp = s.csrResp := rfl
@[simp] theorem State.setReady_env (v : BitVec 4) : (s.setReady v).env = { s.env with sinkReady := v } := rfl

/-! ### Derived flags under the updates of the environment -/

@[simp] theorem State.setTurns_inReady (ts : List Turn) : (s.setTurns ts).inReady = s.inReady := rfl
@[simp] theorem State.setTurns_irq (ts : List Turn) : (s.setTurns ts).irq = s.irq := rfl
@[simp] theorem State.setTurns_ctrlWord (ts : List Turn) : (s.setTurns ts).ctrlWord = s.ctrlWord := rfl
@[simp] theorem State.setTurns_statusWord (ts : List Turn) : (s.setTurns ts).statusWord = s.statusWord := rfl
@[simp] theorem State.setTurns_msgInfoWord (ts : List Turn) : (s.setTurns ts).msgInfoWord = s.msgInfoWord := rfl
@[simp] theorem State.setTurns_overCapacity (ts : List Turn) : (s.setTurns ts).overCapacity = s.overCapacity := rfl
@[simp] theorem State.setTurns_payloadBytes (ts : List Turn) : (s.setTurns ts).payloadBytes = s.payloadBytes := rfl
@[simp] theorem State.setTurns_pbufIndex (ts : List Turn) (i : Nat) : (s.setTurns ts).pbufIndex i = s.pbufIndex i := rfl
@[simp] theorem State.setStream_inReady (ws : List (BitVec 9)) : (s.setStream ws).inReady = s.inReady := rfl
@[simp] theorem State.setStream_irq (ws : List (BitVec 9)) : (s.setStream ws).irq = s.irq := rfl
@[simp] theorem State.setStream_ctrlWord (ws : List (BitVec 9)) : (s.setStream ws).ctrlWord = s.ctrlWord := rfl
@[simp] theorem State.setStream_statusWord (ws : List (BitVec 9)) : (s.setStream ws).statusWord = s.statusWord := rfl
@[simp] theorem State.setStream_msgInfoWord (ws : List (BitVec 9)) : (s.setStream ws).msgInfoWord = s.msgInfoWord := rfl
@[simp] theorem State.setStream_overCapacity (ws : List (BitVec 9)) : (s.setStream ws).overCapacity = s.overCapacity := rfl
@[simp] theorem State.setStream_payloadBytes (ws : List (BitVec 9)) : (s.setStream ws).payloadBytes = s.payloadBytes := rfl
@[simp] theorem State.setStream_pbufIndex (ws : List (BitVec 9)) (i : Nat) : (s.setStream ws).pbufIndex i = s.pbufIndex i := rfl
@[simp] theorem State.setRequests_inReady (rs : List CsrRequest) : (s.setRequests rs).inReady = s.inReady := rfl
@[simp] theorem State.setRequests_irq (rs : List CsrRequest) : (s.setRequests rs).irq = s.irq := rfl
@[simp] theorem State.setRequests_ctrlWord (rs : List CsrRequest) : (s.setRequests rs).ctrlWord = s.ctrlWord := rfl
@[simp] theorem State.setRequests_statusWord (rs : List CsrRequest) : (s.setRequests rs).statusWord = s.statusWord := rfl
@[simp] theorem State.setRequests_msgInfoWord (rs : List CsrRequest) : (s.setRequests rs).msgInfoWord = s.msgInfoWord := rfl
@[simp] theorem State.setRequests_overCapacity (rs : List CsrRequest) : (s.setRequests rs).overCapacity = s.overCapacity := rfl
@[simp] theorem State.setRequests_payloadBytes (rs : List CsrRequest) : (s.setRequests rs).payloadBytes = s.payloadBytes := rfl
@[simp] theorem State.setRequests_pbufIndex (rs : List CsrRequest) (i : Nat) : (s.setRequests rs).pbufIndex i = s.pbufIndex i := rfl
@[simp] theorem State.setReady_inReady (v : BitVec 4) : (s.setReady v).inReady = s.inReady := rfl
@[simp] theorem State.setReady_irq (v : BitVec 4) : (s.setReady v).irq = s.irq := rfl
@[simp] theorem State.setReady_ctrlWord (v : BitVec 4) : (s.setReady v).ctrlWord = s.ctrlWord := rfl
@[simp] theorem State.setReady_statusWord (v : BitVec 4) : (s.setReady v).statusWord = s.statusWord := rfl
@[simp] theorem State.setReady_msgInfoWord (v : BitVec 4) : (s.setReady v).msgInfoWord = s.msgInfoWord := rfl
@[simp] theorem State.setReady_overCapacity (v : BitVec 4) : (s.setReady v).overCapacity = s.overCapacity := rfl
@[simp] theorem State.setReady_payloadBytes (v : BitVec 4) : (s.setReady v).payloadBytes = s.payloadBytes := rfl
@[simp] theorem State.setReady_pbufIndex (v : BitVec 4) (i : Nat) : (s.setReady v).pbufIndex i = s.pbufIndex i := rfl

end Sys2Proof.Machine
end

