-- ==== Sys2Proof/Laws/Ops.lean ====
section
/-! SUPPORT. For each shared operation, once, everything it can do: the lemmas a proof cites instead of unfolding
the operation. -/

namespace Sys2Proof.Machine

/-! ### The reader -/

/-- `in_ready` is 1 exactly in an accepting phase with EN = 1 and `rst` = 0 (10_state.md R37). -/
theorem State.inReady_iff (s : State) :
    s.inReady = true ↔ s.rst = false ∧ s.ctrlEn = true ∧ (s.phase = .len ∨ s.phase = .payload ∨ s.phase = .csum) := by
  cases hp : s.phase <;> simp [State.inReady, Phase.acceptsInput, hp]

theorem State.lengthComplete_eq (s : State) : s.lengthComplete =
    if s.overCapacity then s.raisePlain .lengthExceedsCapacity
    else s.setPhase (if s.frame.lenReg = 0#64 then .csum else .payload) := by
  unfold State.lengthComplete
  split
  · rfl
  · split <;> rfl

theorem State.overCapacity_iff (s : State) :
    s.overCapacity = true ↔ ∃ c, s.params.capacity = some c ∧ c < s.frame.lenReg.toNat := by
  cases h : s.params.capacity <;> simp [State.overCapacity, h]

theorem State.pbufIndex_iff (s : State) (i : Nat) :
    s.pbufIndex i = true ↔ ∀ c, s.params.capacity = some c → i < c := by
  cases h : s.params.capacity <;> simp [State.pbufIndex, h]

/-- What a length byte can do: it stays in LEN, or it completes the length (R121, R122). -/
theorem byteLen_cases (b : Byte) (s : State) :
    ((s.acceptLen b).frame.lenCnt ≠ 8#4 ∧ byteLen b s = s.acceptLen b) ∨
      ((s.acceptLen b).frame.lenCnt = 8#4 ∧ byteLen b s = (s.acceptLen b).lengthComplete) := by
  by_cases h : (s.acceptLen b).frame.lenCnt = 8#4
  · exact .inr ⟨h, if_pos h⟩
  · exact .inl ⟨h, if_neg h⟩

/-- What a payload byte can do when it answers a next state (R124). -/
theorem bytePayload_next {b : Byte} {s t : State} (h : bytePayload b s = .next t) :
    s.pbufIndex s.frame.payCnt.toNat = true ∧
      ((s.frame.payCnt + 1#64 = s.frame.lenReg ∧ t = (s.acceptPayload b).setPhase .csum) ∨
        (s.frame.payCnt + 1#64 ≠ s.frame.lenReg ∧ t = s.acceptPayload b)) := by
  unfold bytePayload at h
  split at h
  · rename_i hi
    refine ⟨hi, ?_⟩
    injection h with h
    subst h
    by_cases hl : s.frame.payCnt + 1#64 = s.frame.lenReg
    · exact .inl ⟨hl, if_pos hl⟩
    · exact .inr ⟨hl, if_neg hl⟩
  · cases h

/-- What a checksum byte can do (R126). -/
theorem byteCsum_cases (b : Byte) (s : State) :
    ((s.acceptCsum b).frame.csumCnt ≠ 4#3 ∧ byteCsum b s = s.acceptCsum b) ∨
      ((s.acceptCsum b).frame.csumCnt = 4#3 ∧ byteCsum b s = (s.acceptCsum b).setPhase .eval) := by
  by_cases h : (s.acceptCsum b).frame.csumCnt = 4#3
  · exact .inr ⟨h, if_pos h⟩
  · exact .inl ⟨h, if_neg h⟩

/-- Everything IN.BYTE can do when it answers a next state (R120). -/
theorem execInByte_next {b : Byte} {s t : State} (h : execInByte b s = .next t) :
    (s.inReady = false ∧ t = s) ∨
      (s.inReady = true ∧ s.phase = .len ∧ t = byteLen b s) ∨
      (s.inReady = true ∧ s.phase = .payload ∧ bytePayload b s = .next t) ∨
      (s.inReady = true ∧ s.phase = .csum ∧ t = byteCsum b s) := by
  unfold execInByte at h
  split at h
  · rename_i hr
    obtain ⟨-, -, hp | hp | hp⟩ := s.inReady_iff.mp hr
    · rw [hp] at h; injection h with h; exact .inr (.inl ⟨hr, hp, h.symm⟩)
    · rw [hp] at h; exact .inr (.inr (.inl ⟨hr, hp, h⟩))
    · rw [hp] at h; injection h with h; exact .inr (.inr (.inr ⟨hr, hp, h.symm⟩))
  · rename_i hr
    injection h with h
    exact .inl ⟨by simpa using hr, h.symm⟩

/-- Everything IN.END can do (R127). -/
theorem execInEnd_next {s t : State} (h : execInEnd s = .next t) :
    (s.inReady = false ∧ t = s) ∨
      (s.inReady = true ∧ s.phase = .len ∧ t = s.raise .incompleteFrame .length (s.frame.lenCnt == 0#4)) ∨
      (s.inReady = true ∧ s.phase = .payload ∧ t = s.raise .incompleteFrame .payload false) ∨
      (s.inReady = true ∧ s.phase = .csum ∧ t = s.raise .incompleteFrame .checksum false) := by
  unfold execInEnd at h
  split at h
  · rename_i hr
    obtain ⟨-, -, hp | hp | hp⟩ := s.inReady_iff.mp hr <;> rw [hp] at h <;> injection h with h
    · exact .inr (.inl ⟨hr, hp, h.symm⟩)
    · exact .inr (.inr (.inl ⟨hr, hp, h.symm⟩))
    · exact .inr (.inr (.inr ⟨hr, hp, h.symm⟩))
  · rename_i hr
    injection h with h
    exact .inl ⟨by simpa using hr, h.symm⟩

/-! ### The CSR port -/

/-- An access is answered, or waits while `rst` is 1 (R290, log 6). -/
theorem csrAccess_next {s a t : State} (h : csrAccess s a = .next t) :
    (s.rst = true ∧ t = s) ∨ (s.rst = false ∧ t = a) := by
  unfold csrAccess at h
  split at h <;> rename_i hr <;> injection h with h
  · exact .inl ⟨hr, h.symm⟩
  · exact .inr ⟨by simpa using hr, h.symm⟩

/-- A read changes nothing but the response (20_memory.md R81). -/
theorem csrRead_next {v : U32} {s t : State} (h : csrRead v s = .next t) :
    t = s ∨ t = s.respond ⟨false, some v⟩ :=
  (csrAccess_next h).imp And.right And.right

/-- The four shapes of a CTRL write (R236). -/
theorem State.writeCtrl_eq (s : State) (v : U32) : s.writeCtrl v =
    (if ctrlwCntClr v then State.counterClear else id)
      ((if ctrlwClear v then State.clear else id) (s.setCtrl (ctrlwEn v) (ctrlwIe v))) := by
  unfold State.writeCtrl
  cases ctrlwClear v <;> cases ctrlwCntClr v <;> rfl

/-! ### Router, EVAL and DELIVER -/

/-- The operation a discriminant selects writes its route, and leaves the raw value in `msg_type` (R210 to R213). -/
theorem exec_disc (t : Byte) (d : List Byte) (s : State) :
    exec (decode (.disc t)) (s.latchMessage t d) = .next ((s.latchMessage t d).setRoute (classify t)) := by
  unfold decode decodeDisc classify
  by_cases h0 : t = 0#8
  · simp only [h0, if_true]; rfl
  · by_cases h1 : t = 1#8
    · subst h1; rfl
    · by_cases h2 : t = 2#8
      · subst h2; rfl
      · simp only [h0, h1, h2, if_false]; rfl

/-- Everything EVAL can do when it answers a next state (R152, R189). -/
theorem evalStep_next {s t : State} (h : evalStep s = .next t) :
    (s.phase ≠ .eval ∧ t = s) ∨
      (s.phase = .eval ∧ s.frame.crcCalc ≠ s.frame.csumReg ∧ t = s.raisePlain .checksumMismatch) ∨
      (s.phase = .eval ∧ s.frame.crcCalc = s.frame.csumReg ∧ s.overCapacity = false ∧
        ((payloadDecode s.params s.payloadBytes = none ∧ t = s.raisePlain .malformedPayload) ∨
          ∃ k d, payloadDecode s.params s.payloadBytes = some (k, d) ∧
            t = (s.latchMessage k d).setRoute (classify k))) := by
  unfold evalStep at h
  split at h
  · rename_i hp
    split at h
    · rename_i hc
      refine .inr (.inr ⟨hp, hc, ?_⟩)
      unfold decodeAndRoute at h
      split at h
      · cases h
      · rename_i hov
        refine ⟨by simpa using hov, ?_⟩
        split at h
        · rename_i hd; injection h with h; exact .inl ⟨hd, h.symm⟩
        · rename_i k d hd
          rw [exec_disc] at h
          injection h with h
          exact .inr ⟨k, d, hd, h.symm⟩
    · rename_i hc; injection h with h; exact .inr (.inl ⟨hp, hc, h.symm⟩)
  · rename_i hp; injection h with h; exact .inl ⟨hp, h.symm⟩

/-- Everything DELIVER can do (R214, R217). -/
theorem deliverStep_next {s t : State} (h : deliverStep s = .next t) :
    (s.phase = .deliver ∧ s.sinkReadyOn s.msgRoute = true ∧ t = s.deliver) ∨
      (¬(s.phase = .deliver ∧ s.sinkReadyOn s.msgRoute = true) ∧ t = s) := by
  unfold deliverStep at h
  split at h <;> rename_i hc <;> injection h with h
  · exact .inl ⟨hc.1, hc.2, h.symm⟩
  · exact .inr ⟨hc, h.symm⟩

/-! ### Turns -/

theorem resetTurn_next {l : Bool} {s t : State} (h : resetTurn l s = .next t) :
    ((l = true ∨ s.rst = true) ∧ t = s.blockReset l) ∨ (l = false ∧ s.rst = false ∧ t = s) := by
  unfold resetTurn at h
  split at h <;> rename_i hc <;> injection h with h
  · exact .inl ⟨by simpa using hc, h.symm⟩
  · simp only [Bool.or_eq_true, not_or, Bool.not_eq_true] at hc
    exact .inr ⟨hc.1, hc.2, h.symm⟩

/-- The source's turn: nothing offered, or the offered symbol is run; it leaves the stream where `in_ready` is 1. -/
theorem sourceTurn_next {s t : State} (h : sourceTurn s = .next t) :
    (s.env.stream = [] ∧ t = s) ∨
      ∃ w ws, s.env.stream = w :: ws ∧
        exec (decode (.sym w)) (if s.inReady then s.setStream ws else s) = .next t := by
  unfold sourceTurn at h
  split at h
  · rename_i he; injection h with h; exact .inl ⟨he, h.symm⟩
  · rename_i w ws he; exact .inr ⟨w, ws, he, h⟩

/-- The host's turn: no request, or the next request is run; it leaves the queue where `rst` is 0. -/
theorem hostTurn_next {s t : State} (h : hostTurn s = .next t) :
    (s.env.requests = [] ∧ t = s) ∨
      ∃ r rs, s.env.requests = r :: rs ∧
        exec (decode (.csr r)) (if s.rst then s else s.setRequests rs) = .next t := by
  unfold hostTurn at h
  split at h
  · rename_i he; injection h with h; exact .inl ⟨he, h.symm⟩
  · rename_i r rs he; exact .inr ⟨r, rs, he, h⟩

/-- Every step is one turn: the one named first, or the block's where none is named. -/
theorem step_eq (s : State) :
    (s.env.turns = [] ∧ step s = runTurn .block s) ∨
      ∃ t ts, s.env.turns = t :: ts ∧ step s = runTurn t (s.setTurns ts) := by
  unfold step
  cases h : s.env.turns with
  | nil => exact .inl ⟨rfl, rfl⟩
  | cons t ts => exact .inr ⟨t, ts, rfl, rfl⟩

/-- A SYM word runs IN.BYTE or IN.END (30_encoding.md R92). -/
theorem exec_sym (w : BitVec 9) (s : State) :
    exec (decode (.sym w)) s =
      if w.getLsbD 8 then execInEnd s else execInByte (w.extractLsb' 0 8) s := by
  show exec (decodeSym w) s = _
  unfold decodeSym
  split <;> rfl

/-- Every mapped offset selects a read (30_encoding.md R95). -/
theorem exec_decodeRead {off : Byte} {i : Instr} (h : decodeRead off = some i) (s : State) :
    ∃ v, exec i s = csrRead v s := by
  obtain ⟨r, hr, rfl⟩ := Option.map_eq_some_iff.mp h
  have hm := List.mem_of_find?_eq_some hr
  simp only [readRows, List.mem_cons, List.not_mem_nil, or_false] at hm
  rcases hm with rfl | rfl | rfl | rfl | rfl | rfl | rfl | rfl | rfl | rfl | rfl | rfl | rfl | rfl <;>
    exact ⟨_, rfl⟩

/-- The three things a CSR request can do: a read of some value, a CTRL write, a bus error (R230). -/
theorem exec_csr (r : CsrRequest) (s : State) :
    (∃ v, exec (decode (.csr r)) s = csrRead v s) ∨
      exec (decode (.csr r)) s = execCsrWriteCtrl r.wdata s ∨
      ∃ we off size, exec (decode (.csr r)) s = execCsrIllegal we off size s := by
  have illegal : ∀ we off size, exec (.csrIllegal we off size) s = execCsrIllegal we off size s := fun _ _ _ => rfl
  simp only [decode, decodeCsr]
  split
  · split
    · split
      · exact .inr (.inl rfl)
      · exact .inr (.inr ⟨_, _, _, illegal _ _ _⟩)
    · cases hd : decodeRead (r.sel.extractLsb' 0 8) with
      | none => exact .inr (.inr ⟨_, _, _, illegal _ _ _⟩)
      | some i => exact .inl (exec_decodeRead hd s)
  · exact .inr (.inr ⟨_, _, _, illegal _ _ _⟩)

end Sys2Proof.Machine
end

