-- ==== Sys2Proof/Laws/PerInstr.lean ====
section
/-! SUPPORT. For each operation: the encoding the formats R92, R93, R95 give it lies in its rows of the opcode table,
by the table's own mask and match. -/

namespace Sys2Proof

/-- The selecting bits of an encoded thing, numbered as the opcode table numbers them. -/
def Encoding.word : Encoding → Nat
  | .sym w => w.toNat
  | .disc t => t.toNat
  | .csr r => r.sel.toNat

/-- The rows of the opcode table with the operation's mnemonic: mask and match. -/
def Instr.tableRows : Instr → List (Nat × Nat)
  | .inByte _ => [(0x100, 0x000)]
  | .inEnd => [(0x100, 0x100)]
  | .routeBlock => [(0xFF, 0x00)]
  | .routeTransaction => [(0xFF, 0x01)]
  | .routeConsensus => [(0xFF, 0x02)]
  | .routeUnrecognized _ => [(0xFF, 0x03), (0xFC, 0x04), (0xF8, 0x08), (0xF0, 0x10), (0xE0, 0x20), (0xC0, 0x40), (0x80, 0x80)]
  | .csrReadCtrl => [(0x1FF, 0x000)]
  | .csrReadStatus => [(0x1FF, 0x004)]
  | .csrReadLenLo => [(0x1FF, 0x008)]
  | .csrReadLenHi => [(0x1FF, 0x00C)]
  | .csrReadPcntLo => [(0x1FF, 0x010)]
  | .csrReadPcntHi => [(0x1FF, 0x014)]
  | .csrReadCrcRx => [(0x1FF, 0x018)]
  | .csrReadCrcCalc => [(0x1FF, 0x01C)]
  | .csrReadMsgInfo => [(0x1FF, 0x020)]
  | .csrReadCntOk => [(0x1FF, 0x024)]
  | .csrReadCntIncomplete => [(0x1FF, 0x028)]
  | .csrReadCntChecksum => [(0x1FF, 0x02C)]
  | .csrReadCntMalformed => [(0x1FF, 0x030)]
  | .csrReadCntOversize => [(0x1FF, 0x034)]
  | .csrWriteCtrl _ => [(0x1FF, 0x100)]
  | .csrIllegal _ _ _ => [(0x000, 0x000)]

/-- The encoding of a well-formed operation matches one of its rows. -/
def Laws.OpcodeRow.Statement (i : Instr) : Prop :=
  i.WellFormed → ∃ r ∈ i.tableRows, (encode i).word &&& r.1 = r.2

theorem Laws.OpcodeRow.inByte (b : Byte) : Laws.OpcodeRow.Statement (.inByte b) := by
  intro _
  revert b
  decide

theorem Laws.OpcodeRow.inEnd : Laws.OpcodeRow.Statement .inEnd :=
  fun _ => ⟨(0x100, 0x100), List.mem_singleton.mpr rfl, rfl⟩

theorem Laws.OpcodeRow.routeBlock : Laws.OpcodeRow.Statement .routeBlock :=
  fun _ => ⟨(0xFF, 0x00), List.mem_singleton.mpr rfl, rfl⟩

theorem Laws.OpcodeRow.routeTransaction : Laws.OpcodeRow.Statement .routeTransaction :=
  fun _ => ⟨(0xFF, 0x01), List.mem_singleton.mpr rfl, rfl⟩

theorem Laws.OpcodeRow.routeConsensus : Laws.OpcodeRow.Statement .routeConsensus :=
  fun _ => ⟨(0xFF, 0x02), List.mem_singleton.mpr rfl, rfl⟩

theorem Laws.OpcodeRow.routeUnrecognized (t : Byte) : Laws.OpcodeRow.Statement (.routeUnrecognized t) := by
  unfold Laws.OpcodeRow.Statement
  revert t
  decide

theorem Laws.OpcodeRow.csrReadCtrl : Laws.OpcodeRow.Statement .csrReadCtrl :=
  fun _ => ⟨(0x1FF, 0x000), List.mem_singleton.mpr rfl, rfl⟩

theorem Laws.OpcodeRow.csrReadStatus : Laws.OpcodeRow.Statement .csrReadStatus :=
  fun _ => ⟨(0x1FF, 0x004), List.mem_singleton.mpr rfl, rfl⟩

theorem Laws.OpcodeRow.csrReadLenLo : Laws.OpcodeRow.Statement .csrReadLenLo :=
  fun _ => ⟨(0x1FF, 0x008), List.mem_singleton.mpr rfl, rfl⟩

theorem Laws.OpcodeRow.csrReadLenHi : Laws.OpcodeRow.Statement .csrReadLenHi :=
  fun _ => ⟨(0x1FF, 0x00C), List.mem_singleton.mpr rfl, rfl⟩

theorem Laws.OpcodeRow.csrReadPcntLo : Laws.OpcodeRow.Statement .csrReadPcntLo :=
  fun _ => ⟨(0x1FF, 0x010), List.mem_singleton.mpr rfl, rfl⟩

theorem Laws.OpcodeRow.csrReadPcntHi : Laws.OpcodeRow.Statement .csrReadPcntHi :=
  fun _ => ⟨(0x1FF, 0x014), List.mem_singleton.mpr rfl, rfl⟩

theorem Laws.OpcodeRow.csrReadCrcRx : Laws.OpcodeRow.Statement .csrReadCrcRx :=
  fun _ => ⟨(0x1FF, 0x018), List.mem_singleton.mpr rfl, rfl⟩

theorem Laws.OpcodeRow.csrReadCrcCalc : Laws.OpcodeRow.Statement .csrReadCrcCalc :=
  fun _ => ⟨(0x1FF, 0x01C), List.mem_singleton.mpr rfl, rfl⟩

theorem Laws.OpcodeRow.csrReadMsgInfo : Laws.OpcodeRow.Statement .csrReadMsgInfo :=
  fun _ => ⟨(0x1FF, 0x020), List.mem_singleton.mpr rfl, rfl⟩

theorem Laws.OpcodeRow.csrReadCntOk : Laws.OpcodeRow.Statement .csrReadCntOk :=
  fun _ => ⟨(0x1FF, 0x024), List.mem_singleton.mpr rfl, rfl⟩

theorem Laws.OpcodeRow.csrReadCntIncomplete : Laws.OpcodeRow.Statement .csrReadCntIncomplete :=
  fun _ => ⟨(0x1FF, 0x028), List.mem_singleton.mpr rfl, rfl⟩

theorem Laws.OpcodeRow.csrReadCntChecksum : Laws.OpcodeRow.Statement .csrReadCntChecksum :=
  fun _ => ⟨(0x1FF, 0x02C), List.mem_singleton.mpr rfl, rfl⟩

theorem Laws.OpcodeRow.csrReadCntMalformed : Laws.OpcodeRow.Statement .csrReadCntMalformed :=
  fun _ => ⟨(0x1FF, 0x030), List.mem_singleton.mpr rfl, rfl⟩

theorem Laws.OpcodeRow.csrReadCntOversize : Laws.OpcodeRow.Statement .csrReadCntOversize :=
  fun _ => ⟨(0x1FF, 0x034), List.mem_singleton.mpr rfl, rfl⟩

theorem Laws.OpcodeRow.csrWriteCtrl (v : U32) : Laws.OpcodeRow.Statement (.csrWriteCtrl v) :=
  fun _ => ⟨(0x1FF, 0x100), List.mem_singleton.mpr rfl, by simp [encode, csrRequest, Encoding.word]⟩

theorem Laws.OpcodeRow.csrIllegal (we : Bool) (off : Byte) (size : Nat) :
    Laws.OpcodeRow.Statement (.csrIllegal we off size) :=
  fun _ => ⟨(0x000, 0x000), List.mem_singleton.mpr rfl, Nat.and_zero _⟩

end Sys2Proof
end

