-- ==== Sys2Proof/Laws/Step.lean ====
section
/-! SUPPORT. Once, everything a step can do to the block (00_scope.md R5): the case split that a statement about every
step starts from. -/

namespace Sys2Proof.Machine

/-- `s` with the agents' side `e`. -/
abbrev State.setEnv (s : State) (e : Env) : State := { s with env := e }

/-- What one step does to the block; `e` is the agents' side once the turn was taken and what was offered has been
picked up. -/
inductive StepEffect (s : State) (e : Env) : State → Prop where
  /-- The turn passes, or an agent drives its own lines. -/
  | idle : StepEffect s e (s.setEnv e)
  /-- IN.BYTE in phase LEN (R121). -/
  | lenByte (b : Byte) : s.inReady = true → s.phase = .len → StepEffect s e (byteLen b (s.setEnv e))
  /-- IN.BYTE in phase PAYLOAD (R124). -/
  | payloadByte (b : Byte) (t : State) : s.inReady = true → s.phase = .payload →
      bytePayload b (s.setEnv e) = .next t → StepEffect s e t
  /-- IN.BYTE in phase CSUM (R126). -/
  | csumByte (b : Byte) : s.inReady = true → s.phase = .csum → StepEffect s e (byteCsum b (s.setEnv e))
  /-- IN.END (R127). -/
  | streamEnd (seg : Segment) (boundary : Bool) : s.inReady = true →
      ((s.phase = .len ∧ seg = .length ∧ boundary = (s.frame.lenCnt == 0#4)) ∨
        (s.phase = .payload ∧ seg = .payload ∧ boundary = false) ∨
        (s.phase = .csum ∧ seg = .checksum ∧ boundary = false)) →
      StepEffect s e ((s.setEnv e).raise .incompleteFrame seg boundary)
  /-- EVAL, the checksums differ (R152). -/
  | mismatch : s.phase = .eval → s.frame.crcCalc ≠ s.frame.csumReg →
      StepEffect s e ((s.setEnv e).raisePlain .checksumMismatch)
  /-- EVAL, the payload does not parse (R189). -/
  | malformed : s.phase = .eval → s.frame.crcCalc = s.frame.csumReg →
      payloadDecode s.params s.payloadBytes = none → StepEffect s e ((s.setEnv e).raisePlain .malformedPayload)
  /-- EVAL, the payload is a message (R189, R210). -/
  | message (t : Byte) (d : List Byte) : s.phase = .eval → s.frame.crcCalc = s.frame.csumReg →
      payloadDecode s.params s.payloadBytes = some (t, d) →
      StepEffect s e (((s.setEnv e).latchMessage t d).setRoute (classify t))
  /-- DELIVER (R214). -/
  | deliver (ts : List Turn) : s.env.turns = .sink :: ts → s.phase = .deliver → s.sinkReadyOn s.msgRoute = true →
      StepEffect s e (s.setEnv e).deliver
  /-- A CSR read or a bad request is answered (R230, R233). -/
  | respond (r : CsrResponse) : s.rst = false → StepEffect s e ((s.setEnv e).respond r)
  /-- A CTRL write (R236). -/
  | writeCtrl (r : CsrRequest) (rs : List CsrRequest) (ts : List Turn) : s.rst = false →
      s.env.turns = .host :: ts → s.env.requests = r :: rs → decode (.csr r) = .csrWriteCtrl r.wdata →
      StepEffect s e (((s.setEnv e).writeCtrl r.wdata).respond ⟨false, none⟩)
  /-- RESET (R290). -/
  | reset (level : Bool) (ts : List Turn) : s.env.turns = .rst level :: ts →
      StepEffect s e ((s.setEnv e).blockReset level)

/-- What a turn may take from the agents before it acts on the block. -/
def EnvMoves (s : State) (e : Env) : Prop :=
  e.received = s.env.received ∧
    (e.stream = s.env.stream ∨ (s.inReady = true ∧ ∃ w, s.env.stream = w :: e.stream))

theorem sourceTurn_effect {s t : State} {ts : List Turn} (h : sourceTurn (s.setTurns ts) = .next t) :
    ∃ e, EnvMoves s e ∧ StepEffect s e t := by
  rcases sourceTurn_next h with ⟨-, rfl⟩ | ⟨w, ws, hw, hx⟩
  · exact ⟨{ s.env with turns := ts }, ⟨rfl, .inl rfl⟩, .idle⟩
  · have hw' : s.env.stream = w :: ws := hw
    cases hr : s.inReady with
    | false =>
      have hr' : (s.setTurns ts).inReady = false := hr
      rw [hr'] at hx
      refine ⟨{ s.env with turns := ts }, ⟨rfl, .inl rfl⟩, ?_⟩
      rw [exec_sym] at hx
      split at hx
      · rcases execInEnd_next hx with ⟨-, rfl⟩ | ⟨h, -⟩ | ⟨h, -⟩ | ⟨h, -⟩
        · exact .idle
        all_goals exact absurd (hr.symm.trans h) (by decide)
      · rcases execInByte_next hx with ⟨-, rfl⟩ | ⟨h, -⟩ | ⟨h, -⟩ | ⟨h, -⟩
        · exact .idle
        all_goals exact absurd (hr.symm.trans h) (by decide)
    | true =>
      have hr' : (s.setTurns ts).inReady = true := hr
      rw [hr', if_pos rfl, exec_sym] at hx
      refine ⟨{ s.env with turns := ts, stream := ws }, ⟨rfl, .inr ⟨hr, w, hw'⟩⟩, ?_⟩
      split at hx
      · rcases execInEnd_next hx with ⟨h, -⟩ | ⟨-, hp, rfl⟩ | ⟨-, hp, rfl⟩ | ⟨-, hp, rfl⟩
        · exact absurd (hr.symm.trans h) (by decide)
        · exact .streamEnd _ _ hr (.inl ⟨hp, rfl, rfl⟩)
        · exact .streamEnd _ _ hr (.inr (.inl ⟨hp, rfl, rfl⟩))
        · exact .streamEnd _ _ hr (.inr (.inr ⟨hp, rfl, rfl⟩))
      · rcases execInByte_next hx with ⟨h, -⟩ | ⟨-, hp, rfl⟩ | ⟨-, hp, hb⟩ | ⟨-, hp, rfl⟩
        · exact absurd (hr.symm.trans h) (by decide)
        · exact .lenByte _ hr hp
        · exact .payloadByte _ _ hr hp hb
        · exact .csumByte _ hr hp

theorem evalStep_effect {s t : State} {e : Env} (h : evalStep (s.setEnv e) = .next t) : StepEffect s e t := by
  rcases evalStep_next h with ⟨-, rfl⟩ | ⟨hp, hc, rfl⟩ | ⟨hp, hc, -, ⟨hd, rfl⟩ | ⟨k, d, hd, rfl⟩⟩
  · exact .idle
  · exact .mismatch hp hc
  · exact .malformed hp hc hd
  · exact .message k d hp hc hd

/-- A CSR request other than a CTRL write does not decode to one; one that does carries its own data word. -/
theorem decode_csr_write {r : CsrRequest} {v : U32} (h : decode (.csr r) = .csrWriteCtrl v) : v = r.wdata := by
  simp only [decode, decodeCsr] at h
  split at h
  · split at h
    · split at h
      · injection h with h; exact h.symm
      · cases h
    · cases hd : decodeRead (r.sel.extractLsb' 0 8) with
      | none => rw [hd] at h; cases h
      | some i =>
        rw [hd] at h
        obtain ⟨q, hq, rfl⟩ := Option.map_eq_some_iff.mp hd
        have hm := List.mem_of_find?_eq_some hq
        simp only [readRows, List.mem_cons, List.not_mem_nil, or_false] at hm
        rcases hm with rfl | rfl | rfl | rfl | rfl | rfl | rfl | rfl | rfl | rfl | rfl | rfl | rfl | rfl <;> cases h
  · cases h

/-- The three things a CSR request is, by its decoding (R95). -/
theorem decode_csr_cases (r : CsrRequest) :
    (∀ s, ∃ v, exec (decode (.csr r)) s = csrRead v s) ∨ decode (.csr r) = .csrWriteCtrl r.wdata ∨
      ∃ we off size, decode (.csr r) = .csrIllegal we off size := by
  simp only [decode, decodeCsr]
  split
  · split
    · split
      · exact .inr (.inl rfl)
      · exact .inr (.inr ⟨_, _, _, rfl⟩)
    · cases hd : decodeRead (r.sel.extractLsb' 0 8) with
      | none => exact .inr (.inr ⟨_, _, _, rfl⟩)
      | some i => exact .inl fun s => exec_decodeRead hd s
  · exact .inr (.inr ⟨_, _, _, rfl⟩)

theorem hostTurn_effect {s t : State} {ts : List Turn} (hturn : s.env.turns = .host :: ts)
    (h : hostTurn (s.setTurns ts) = .next t) : ∃ e, EnvMoves s e ∧ StepEffect s e t := by
  rcases hostTurn_next h with ⟨-, rfl⟩ | ⟨r, rs, hr, hx⟩
  · exact ⟨{ s.env with turns := ts }, ⟨rfl, .inl rfl⟩, .idle⟩
  · have hq : s.env.requests = r :: rs := hr
    have hcond : (if (s.setTurns ts).rst then s.setTurns ts else (s.setTurns ts).setRequests rs) =
        if s.rst then s.setTurns ts else (s.setTurns ts).setRequests rs := rfl
    rw [hcond] at hx
    cases hrst : s.rst with
    | true =>
      rw [hrst, if_pos rfl] at hx
      refine ⟨{ s.env with turns := ts }, ⟨rfl, .inl rfl⟩, ?_⟩
      have key : ∀ a, csrAccess (s.setTurns ts) a = .next t → StepEffect s { s.env with turns := ts } t := by
        intro a ha
        rcases csrAccess_next ha with ⟨-, rfl⟩ | ⟨hf, -⟩
        · exact .idle
        · exact absurd (hrst.symm.trans hf) (by decide)
      rcases exec_csr r (s.setTurns ts) with ⟨v, he⟩ | he | ⟨we, off, size, he⟩ <;> rw [he] at hx <;>
        exact key _ hx
    | false =>
      rw [hrst] at hx
      refine ⟨{ s.env with turns := ts, requests := rs }, ⟨rfl, .inl rfl⟩, ?_⟩
      have key : ∀ a, csrAccess ((s.setTurns ts).setRequests rs) a = .next t → t = a := by
        intro a ha
        rcases csrAccess_next ha with ⟨hf, -⟩ | ⟨-, rfl⟩
        · exact absurd (hrst.symm.trans hf) (by decide)
        · rfl
      rcases decode_csr_cases r with hd | hd | ⟨we, off, size, hd⟩
      · obtain ⟨v, he⟩ := hd ((s.setTurns ts).setRequests rs)
        have he' : csrRead v ((s.setTurns ts).setRequests rs) = .next t := he ▸ hx
        rw [key _ he']
        exact .respond _ hrst
      · have hx' : execCsrWriteCtrl r.wdata ((s.setTurns ts).setRequests rs) = .next t := by
          rw [hd] at hx; exact hx
        rw [key _ hx']
        exact .writeCtrl r rs ts hrst hturn hq hd
      · have hx' : execCsrIllegal we off size ((s.setTurns ts).setRequests rs) = .next t := by
          rw [hd] at hx; exact hx
        rw [key _ hx']
        exact .respond _ hrst

/-- Everything a step can do. -/
theorem step_effect {s t : State} (h : step s = .next t) : ∃ e, EnvMoves s e ∧ StepEffect s e t := by
  rcases step_eq s with ⟨-, he⟩ | ⟨u, ts, hu, he⟩ <;> rw [he] at h
  · exact ⟨s.env, ⟨rfl, .inl rfl⟩, evalStep_effect h⟩
  · cases u with
    | source => exact sourceTurn_effect h
    | block => exact ⟨{ s.env with turns := ts }, ⟨rfl, .inl rfl⟩, evalStep_effect h⟩
    | sink =>
      refine ⟨{ s.env with turns := ts }, ⟨rfl, .inl rfl⟩, ?_⟩
      rcases deliverStep_next h with ⟨hp, hr, rfl⟩ | ⟨-, rfl⟩
      · exact .deliver ts hu hp hr
      · exact .idle
    | host => exact hostTurn_effect hu h
    | ready lines =>
      injection h with h
      subst h
      exact ⟨{ s.env with turns := ts, sinkReady := lines }, ⟨rfl, .inl rfl⟩, .idle⟩
    | rst level =>
      refine ⟨{ s.env with turns := ts }, ⟨rfl, .inl rfl⟩, ?_⟩
      rcases resetTurn_next h with ⟨-, rfl⟩ | ⟨-, -, rfl⟩
      · exact .reset level ts hu
      · exact .idle

end Sys2Proof.Machine
end

