-- ==== Sys2Proof/Tests/Slice0.lean ====
section
/-! SUPPORT. Tests on fixed values, taken from 95_test_vectors.md and from the examples at the rules, and for each
statement with hypotheses a state that meets them. -/

open Sys2Proof Sys2Proof.Machine

namespace Sys2Proof.Tests

/-! ## Helpers -/

/-- The reset state in phase `p` with frame state `f`. -/
def atPhase (p : Phase) (f : FrameRegs) : State := { State.reset with phase := p, frame := f }

/-- Frame state: `lenCnt`, `lenReg`, `payCnt`, `csumCnt`, nothing received yet in `csum_reg`. -/
def regs (lenCnt : BitVec 4) (lenReg payCnt : U64) (csumCnt : BitVec 3) : FrameRegs :=
  ⟨lenCnt, lenReg, payCnt, csumCnt, 0, 0xFFFFFFFF⟩

/-- `s` with PAYLOAD_CAPACITY = `c`. -/
def withCapacity (c : Nat) (s : State) : State := { s with params := { s.params with capacity := some c } }

/-- `s` with one turn to come. -/
def turn (t : Turn) (s : State) : State := s.setTurns [t]

/-- `s` with the symbol `w` offered on the source's turn. -/
def offering (w : BitVec 9) (s : State) : State := turn .source (s.setStream [w])

/-- `s` with the request `r` made on the host's turn. -/
def requesting (r : CsrRequest) (s : State) : State := turn .host (s.setRequests [r])

/-- The next state of an outcome meets `f`. -/
def gives (o : Host.Outcome State Fault Refusal) (f : State → Bool) : Bool :=
  match o with
  | .next t => f t
  | _ => false

theorem gives_next {o : Host.Outcome State Fault Refusal} {f : State → Bool} (h : gives o f = true) :
    ∃ t, o = .next t ∧ f t = true := by
  cases o with
  | next t => exact ⟨t, rfl, h⟩
  | fault r => cases h
  | refused r => cases h

/-- The operation answers with the word `v` and changes nothing else. -/
def readsAs (i : Instr) (s : State) (v : U32) : Bool :=
  gives (exec i s) fun t => t == { s with csrResp := some ⟨false, some v⟩ }

/-- W4 (95_test_vectors.md): the payload "????" received with its checksum 0xE7922DF4, before EVAL. -/
def afterW4 : State :=
  { atPhase .eval ⟨8, 4, 4, 4, 0xE7922DF4, ~~~0xE7922DF4⟩ with pbuf := [(0, 0x3F), (1, 0x3F), (2, 0x3F), (3, 0x3F)] }

/-- The canonical payload of `(t, [])` received, before EVAL. -/
def afterEmpty (t : Byte) : State :=
  let p := canonEncode Params.defaults t []
  { atPhase .eval (FrameRegs.received p) with pbuf := Memory.ofBytes 0 p }

/-- The message `(200, [])` waits for its sink. -/
def pending : State :=
  { atPhase .deliver (regs 8 22 22 4) with msgType := 200, msgRoute := .unrecognized }

/-- The block after IN.END at reset (V-ERR-1). -/
def inError : State :=
  { atPhase .error FrameRegs.init with err := ⟨.incompleteFrame, .length, true⟩, cnt := ⟨0, 1, 0, 0, 0⟩ }

/-! ## WellFormed -/

theorem test_wellFormed_refuses_known_discriminant : (Instr.routeUnrecognized 2).wellFormed = false := by decide
theorem test_wellFormed_admits_discriminant_3 : (Instr.routeUnrecognized 3).wellFormed = true := by decide
theorem test_wellFormed_refuses_legal_read : (Instr.csrIllegal false 0x34 4).wellFormed = false := by decide
theorem test_wellFormed_refuses_legal_write : (Instr.csrIllegal true 0x00 4).wellFormed = false := by decide
theorem test_wellFormed_admits_illegal_requests :
    (Instr.csrIllegal false 0x38 4).wellFormed = true ∧ (Instr.csrIllegal false 0x02 4).wellFormed = true
      ∧ (Instr.csrIllegal false 0x04 2).wellFormed = true ∧ (Instr.csrIllegal true 0x04 4).wellFormed = true := by decide
theorem test_wellFormed_refuses_empty_key : ({ Params.defaults with keyType := [] } : Params).wellFormed = false := by
  decide
theorem test_wellFormed_refuses_empty_data_key :
    ({ Params.defaults with keyData := [] } : Params).wellFormed = false := by decide
theorem test_wellFormed_refuses_equal_keys :
    ({ Params.defaults with keyData := Params.defaults.keyType } : Params).wellFormed = false := by decide
theorem test_wellFormed_refuses_quote_in_key :
    ({ Params.defaults with keyType := [0x22] } : Params).wellFormed = false := by decide
theorem test_wellFormed_refuses_backslash_in_key :
    ({ Params.defaults with keyData := [0x5C] } : Params).wellFormed = false := by decide
theorem test_wellFormed_refuses_control_byte_in_key :
    ({ Params.defaults with keyData := [0x1F] } : Params).wellFormed = false := by decide
theorem test_wellFormed_defaults : Params.defaults.wellFormed = true := by decide

/-! ## Decoding: words written out from the formats R92, R93, R95 -/

theorem test_decode_inByte : decode (.sym 0b010000001#9) = .inByte 0x81 := by decide
theorem test_decode_inEnd : decode (.sym 0b100000000#9) = .inEnd ∧ decode (.sym 0b111111111#9) = .inEnd := by decide
theorem test_decode_routeBlock : decode (.disc 0b00000000#8) = .routeBlock := by decide
theorem test_decode_routeTransaction : decode (.disc 0b00000001#8) = .routeTransaction := by decide
theorem test_decode_routeConsensus : decode (.disc 0b00000010#8) = .routeConsensus := by decide
theorem test_decode_routeUnrecognized :
    decode (.disc 0b00000011#8) = .routeUnrecognized 3 ∧ decode (.disc 0b11111111#8) = .routeUnrecognized 255 := by decide
theorem test_decode_csrReadCtrl : decode (.csr ⟨0b000000000#9, 4, 0⟩) = .csrReadCtrl := by decide
theorem test_decode_csrReadStatus : decode (.csr ⟨0b000000100#9, 4, 0⟩) = .csrReadStatus := by decide
theorem test_decode_csrReadLenLo : decode (.csr ⟨0b000001000#9, 4, 0⟩) = .csrReadLenLo := by decide
theorem test_decode_csrReadLenHi : decode (.csr ⟨0b000001100#9, 4, 0⟩) = .csrReadLenHi := by decide
theorem test_decode_csrReadPcntLo : decode (.csr ⟨0b000010000#9, 4, 0⟩) = .csrReadPcntLo := by decide
theorem test_decode_csrReadPcntHi : decode (.csr ⟨0b000010100#9, 4, 0⟩) = .csrReadPcntHi := by decide
theorem test_decode_csrReadCrcRx : decode (.csr ⟨0b000011000#9, 4, 0⟩) = .csrReadCrcRx := by decide
theorem test_decode_csrReadCrcCalc : decode (.csr ⟨0b000011100#9, 4, 0⟩) = .csrReadCrcCalc := by decide
theorem test_decode_csrReadMsgInfo : decode (.csr ⟨0b000100000#9, 4, 0⟩) = .csrReadMsgInfo := by decide
theorem test_decode_csrReadCntOk : decode (.csr ⟨0b000100100#9, 4, 0⟩) = .csrReadCntOk := by decide
theorem test_decode_csrReadCntIncomplete : decode (.csr ⟨0b000101000#9, 4, 0⟩) = .csrReadCntIncomplete := by decide
theorem test_decode_csrReadCntChecksum : decode (.csr ⟨0b000101100#9, 4, 0⟩) = .csrReadCntChecksum := by decide
theorem test_decode_csrReadCntMalformed : decode (.csr ⟨0b000110000#9, 4, 0⟩) = .csrReadCntMalformed := by decide
theorem test_decode_csrReadCntOversize : decode (.csr ⟨0b000110100#9, 4, 0⟩) = .csrReadCntOversize := by decide
theorem test_decode_csrWriteCtrl : decode (.csr ⟨0b100000000#9, 4, 0x303⟩) = .csrWriteCtrl 0x303 := by decide
theorem test_decode_csrIllegal :
    decode (.csr ⟨0b000111000#9, 4, 0⟩) = .csrIllegal false 0x38 4
      ∧ decode (.csr ⟨0b100000000#9, 1, 5⟩) = .csrIllegal true 0x00 1 := by decide

/-- A word of the opcode table reaches the decoder (log 8). -/
theorem test_decodeTableWord :
    decodeTableWord 8 0xC8 = some (.routeUnrecognized 200) ∧ decodeTableWord 16 0x0A5 = some (.inByte 0xA5)
      ∧ decodeTableWord 16 0x01C = some .csrReadCrcCalc ∧ decodeTableWord 16 0x1FF = some .inEnd := by decide

/-- A word placed for the fetch runs as the next step (log 10). -/
theorem test_withFetchWord_sym :
    gives (step (State.reset.withFetchWord 16 0x1FF)) (fun t => t.statusWord == 0x00000415) = true := by decide
theorem test_withFetchWord_disc :
    gives (step (State.reset.withFetchWord 8 0x01)) (fun t => t.msgInfoWord == 0x00000101) = true := by decide +kernel

/-! ## One step of each operation -/

/-- V-RDR-1, byte 0. -/
theorem test_inByte_first_length_byte :
    gives (exec (.inByte 0x00) State.reset) (fun t => t.statusWord == 0x00081000 && t.frame.crcCalc == 0xD202EF8D)
      = true := by decide
/-- The example at R124. -/
theorem test_inByte_payload_example :
    gives (exec (.inByte 0x3F) (atPhase .payload (regs 8 4 3 0)))
      (fun t => t.pbuf == [(3, 0x3F)] && t.frame.payCnt == 4 && t.phase == .csum) = true := by decide
/-- V-ERR-1, code 1. -/
theorem test_inEnd_at_reset : gives (exec .inEnd State.reset) (fun t => t.statusWord == 0x00000415) = true := by decide
/-- W3: the payload cut short after 27 of 28 bytes. -/
theorem test_inEnd_in_payload :
    gives (exec .inEnd (atPhase .payload (regs 8 28 27 0)))
      (fun t => t.statusWord == 0x00008115 && t.cnt.incomplete == 1) = true := by decide
/-- F-ROUTE: MSG_INFO by discriminant. -/
theorem test_routeBlock :
    gives (exec .routeBlock { pending with msgType := 0 }) (fun t => t.msgInfoWord == 0x00000000) = true := by decide
theorem test_routeTransaction :
    gives (exec .routeTransaction { pending with msgType := 1 }) (fun t => t.msgInfoWord == 0x00000101) = true := by decide
theorem test_routeConsensus :
    gives (exec .routeConsensus { pending with msgType := 2 }) (fun t => t.msgInfoWord == 0x00000202) = true := by decide
theorem test_routeUnrecognized :
    gives (exec (.routeUnrecognized 127) State.reset) (fun t => t.msgInfoWord == 0x0000037F) = true := by decide
/-- V-CSR-1 for CTRL and STATUS; the others on the states of the vectors named. -/
theorem test_csrReadCtrl : readsAs .csrReadCtrl State.reset 0x00000001 = true := by decide
theorem test_csrReadStatus : readsAs .csrReadStatus State.reset 0x00080000 = true := by decide
/-- V-ERR-1, code 1. -/
theorem test_csrReadStatus_error : readsAs .csrReadStatus inError 0x00000415 = true := by decide
/-- V-RDR-2. -/
theorem test_csrReadLenLo : readsAs .csrReadLenLo (atPhase .payload (regs 8 0x100000000 0 0)) 0x00000000 = true := by decide
theorem test_csrReadLenHi : readsAs .csrReadLenHi (atPhase .payload (regs 8 0x100000000 0 0)) 0x00000001 = true := by decide
/-- W3. -/
theorem test_csrReadPcntLo : readsAs .csrReadPcntLo (atPhase .payload (regs 8 28 27 0)) 0x0000001B = true := by decide
theorem test_csrReadPcntHi :
    readsAs .csrReadPcntHi (atPhase .payload (regs 8 0x200000000 0x100000005 0)) 0x00000001 = true := by decide
/-- W4. -/
theorem test_csrReadCrcRx : readsAs .csrReadCrcRx afterW4 0xE7922DF4 = true := by decide
theorem test_csrReadCrcCalc : readsAs .csrReadCrcCalc afterW4 0xE7922DF4 = true := by decide
/-- W6. -/
theorem test_csrReadMsgInfo : readsAs .csrReadMsgInfo pending 0x000003C8 = true := by decide
theorem test_csrReadCntOk : readsAs .csrReadCntOk { inError with cnt := ⟨1, 2, 3, 4, 5⟩ } 1 = true := by decide
theorem test_csrReadCntIncomplete : readsAs .csrReadCntIncomplete { inError with cnt := ⟨1, 2, 3, 4, 5⟩ } 2 = true := by
  decide
theorem test_csrReadCntChecksum : readsAs .csrReadCntChecksum { inError with cnt := ⟨1, 2, 3, 4, 5⟩ } 3 = true := by decide
theorem test_csrReadCntMalformed : readsAs .csrReadCntMalformed { inError with cnt := ⟨1, 2, 3, 4, 5⟩ } 4 = true := by
  decide
theorem test_csrReadCntOversize : readsAs .csrReadCntOversize { inError with cnt := ⟨1, 2, 3, 4, 5⟩ } 5 = true := by decide
/-- V-CSR-2, third row. -/
theorem test_csrWriteCtrl_ignored_bits :
    gives (exec (.csrWriteCtrl 0xFFFFFCFC) State.reset) (fun t => t.ctrlWord == 0 && t.statusWord == 0) = true := by decide
/-- V-CSR-5. -/
theorem test_csrWriteCtrl_clears_error_and_counters :
    gives (exec (.csrWriteCtrl 0x00000301) inError) (fun t => t.statusWord == 0x00080000 && t.cnt == Counters.zero)
      = true := by decide
/-- V-CSR-3: a bus error, read data 0, no state changed. -/
theorem test_csrIllegal_read :
    gives (exec (.csrIllegal false 0x38 4) inError) (fun t => t == { inError with csrResp := some ⟨true, some 0⟩ })
      = true := by decide
theorem test_csrIllegal_write :
    gives (exec (.csrIllegal true 0x04 4) inError) (fun t => t == { inError with csrResp := some ⟨true, none⟩ })
      = true := by decide

/-! ## The internal steps and the functions -/

/-- W4. -/
theorem test_eval_malformed :
    gives (step afterW4) (fun t => t.statusWord == 0x00048035 && t.cnt == ⟨0, 0, 0, 1, 0⟩) = true := by decide +kernel
/-- V-CRC-6: the mismatch wins. -/
theorem test_eval_mismatch_wins :
    gives (step { afterW4 with frame := { afterW4.frame with csumReg := 0xE7922D0B } })
      (fun t => t.statusWord == 0x00048025 && t.cnt == ⟨0, 0, 1, 0, 0⟩) = true := by decide +kernel
/-- W6. -/
theorem test_eval_message :
    gives (step (afterEmpty 200)) (fun t => t.statusWord == 0x00048004 && t.msgInfoWord == 0x000003C8) = true := by
  decide +kernel
/-- W6, `accept`. -/
theorem test_deliver :
    gives (step (turn .sink (pending.setReady 0xF)))
      (fun t => t.statusWord == 0x00080000 && t.cnt.ok == 1 && t.env.received == [⟨.unrecognized, 200, []⟩]) = true := by
  decide
/-- V-RST-2. -/
theorem test_reset_in_error :
    gives (step (turn (.rst true) inError)) (fun t => t.cnt == Counters.zero && t.phase == .len && !t.inReady) = true := by
  decide
/-- R103: in phase EVAL a `csrr STATUS` line waits for EVAL and reads what it left (W4). -/
theorem test_trace_line_waits_for_eval :
    (match (TraceOp.csrr .status).run afterW4 with
      | some o => gives o fun t => t.csrResp == some ⟨false, some 0x00048035⟩
      | none => false) = true := by decide +kernel
/-- R103: in phase EVAL `accept` waits for EVAL and takes the message (W6). -/
theorem test_trace_accept_waits_for_eval :
    (match TraceOp.accept.run (afterEmpty 200) with
      | some o => gives o fun t => t.env.received == [⟨.unrecognized, 200, []⟩] && t.statusWord == 0x00080000
      | none => false) = true := by decide +kernel
/-- V-CRC-1, the check value. -/
theorem test_crc32_check_value :
    crc32 [0x31, 0x32, 0x33, 0x34, 0x35, 0x36, 0x37, 0x38, 0x39] = 0xCBF43926 := by decide +kernel
/-- V-CRC-2. -/
theorem test_crcStep_table :
    crcStep 0 0x01 = 0x77073096 ∧ crcStep 0 0x80 = 0xEDB88320 ∧ crcStep 0 0xFF = 0x2D02EF8D := by decide +kernel
/-- The payloads of D-7 (pad bits ignored), D-11, D-37 (leading zero) and D-46 (`=` inside), by their parts. -/
theorem test_base64_pad_bits : b64Decode [0x51, 0x52, 0x3D, 0x3D] = some [0x41] := by decide +kernel
theorem test_base64_alphabet : b64Decode [0x2B, 0x2F, 0x2B, 0x2F] = some [0xFB, 0xFF, 0xBF] := by decide +kernel
theorem test_base64_inner_pad : b64Decode [0x61, 0x47, 0x3D, 0x73, 0x62, 0x47, 0x38, 0x3D] = none := by decide +kernel
theorem test_uint_leading_zero : parseUint8 [0x30, 0x31] = none := by decide +kernel
/-- D-35: 256 does not fit. -/
theorem test_uint_256 : parseUint8 [0x32, 0x35, 0x36, 0x2C] = none := by decide +kernel
/-- W1: the canonical payload of (0, "hello"). -/
theorem test_canonEncode_hello :
    decodeJson Params.defaults (canonEncode Params.defaults 0 [0x68, 0x65, 0x6C, 0x6C, 0x6F])
      = some (0, [0x68, 0x65, 0x6C, 0x6C, 0x6F]) := by decide +kernel
/-- The reset state's PBUF is in its canonical form. -/
theorem test_reset_pbuf_wf : State.reset.pbuf.wf := Memory.empty_wf

/-! ## For each statement with hypotheses, values that meet them -/

theorem test_meets_DecodeOfEncodeIsIdentity :
    (Instr.routeUnrecognized 3).WellFormed ∧ (Instr.csrIllegal false 0x35 4).WellFormed ∧ Instr.inEnd.WellFormed := by
  decide

theorem test_meets_OfferedSymbolRunsItsOperation :
    ∃ (s : State) (ts : List Turn) (w : BitVec 9) (ws : List (BitVec 9)),
      s.env.turns = .source :: ts ∧ s.env.stream = w :: ws ∧ s.inReady = true :=
  ⟨offering 0x041 State.reset, [], 0x041, [], by decide⟩

theorem test_meets_HostRequestRunsItsOperation :
    ∃ (s : State) (ts : List Turn) (r : CsrRequest) (rs : List CsrRequest),
      s.env.turns = .host :: ts ∧ s.env.requests = r :: rs ∧ s.rst = false :=
  ⟨requesting ⟨0x004, 4, 0⟩ inError, [], ⟨0x004, 4, 0⟩, [], by decide⟩

/-- For DecodedDiscriminantRunsItsRoute and ParsedPayloadBecomesTheMessage, at every discriminant where the route
changes. -/
theorem test_meets_ParsedPayloadBecomesTheMessage :
    ∀ t ∈ [0#8, 1#8, 2#8, 3#8, 255#8], ∃ (s : State) (ts : List Turn) (p : List Byte) (d : List Byte),
      s.env.turns = .block :: ts ∧ s.phase = .eval ∧ s.frame.crcReg ^^^ 0xFFFFFFFF#32 = s.frame.csumReg
        ∧ (∀ c, s.params.capacity = some c → s.frame.lenReg.toNat ≤ c)
        ∧ s.pbuf.bytesAt s.pbufEpoch 0 s.frame.lenReg.toNat = p ∧ payloadDecode s.params p = some (t, d) := by
  intro t ht
  refine ⟨turn .block (afterEmpty t), [], canonEncode Params.defaults t [], [], rfl, rfl, ?_, ?_, ?_, ?_⟩
  · revert t; decide +kernel
  · intro c hc; cases hc
  · revert t; decide +kernel
  · revert t; decide +kernel

/-- Each of the five conditions alone. -/
theorem test_meets_HeldSymbolStaysOffered :
    ∀ s ∈ [offering 0x041 { State.reset with rst := true }, offering 0x041 { State.reset with ctrlEn := false },
        offering 0x041 afterW4, offering 0x041 pending, offering 0x041 inError],
      s.env.turns = .source :: []
        ∧ (s.rst = true ∨ s.ctrlEn = false ∨ s.phase = .eval ∨ s.phase = .deliver ∨ s.phase = .error) := by
  decide

theorem test_meets_LengthBytesAreBigEndian : State.reset.frame.lenReg = 0#64 := rfl

/-- The first and the seventh length byte. -/
theorem test_meets_LengthByteIsShiftedIn :
    ∀ s ∈ [State.reset, atPhase .len (regs 6 0 0 0)],
      s.inReady = true ∧ s.phase = .len ∧ s.frame.lenCnt + 1#4 ≠ 8#4 := by
  decide

/-- The eighth length byte with L = 28: PAYLOAD_CAPACITY 27 is exceeded, 28 and UNBOUNDED are not; and L = 0 with
PAYLOAD_CAPACITY 0. -/
theorem test_meets_EighthLengthByteCompletesLength :
    (∀ s ∈ [atPhase .len (regs 7 0 0 0), withCapacity 27 (atPhase .len (regs 7 0 0 0))],
        s.inReady = true ∧ s.phase = .len ∧ s.frame.lenCnt + 1#4 = 8#4)
      ∧ (∃ c, (withCapacity 27 State.reset).params.capacity = some c ∧ c < (0x1C#64).toNat)
      ∧ (∀ c, (withCapacity 28 State.reset).params.capacity = some c → (0x1C#64).toNat ≤ c)
      ∧ (∀ c, State.reset.params.capacity = some c → (0x1C#64).toNat ≤ c)
      ∧ (∀ c, (withCapacity 0 State.reset).params.capacity = some c → (0#64).toNat ≤ c) := by
  refine ⟨by decide, ⟨27, rfl, by decide⟩, ?_, ?_, ?_⟩ <;> (intro c h; cases h; try decide)

/-- The first byte without a capacity, and the last index of a PBUF of four bytes. -/
theorem test_meets_PayloadByteIsStored :
    (∀ s ∈ [atPhase .payload (regs 8 4 0 0), withCapacity 4 (atPhase .payload (regs 8 4 3 0))],
        s.inReady = true ∧ s.phase = .payload)
      ∧ (∀ c, (withCapacity 4 State.reset).params.capacity = some c → (3#64).toNat < c)
      ∧ (∀ c, State.reset.params.capacity = some c → (0#64).toNat < c) := by
  refine ⟨by decide, ?_, ?_⟩ <;> (intro c h; cases h; try decide)

theorem test_meets_PayloadByteOutsidePbufFaults :
    ∃ (s : State) (c : Nat), s.inReady = true ∧ s.phase = .payload ∧ s.params.capacity = some c
      ∧ c ≤ s.frame.payCnt.toNat :=
  ⟨withCapacity 4 (atPhase .payload (regs 8 5 4 0)), 4, by decide⟩

/-- The first and the fourth checksum byte. -/
theorem test_meets_ChecksumByteIsShiftedIn :
    ∀ s ∈ [atPhase .csum (regs 8 4 4 0), atPhase .csum (regs 8 4 4 3)], s.inReady = true ∧ s.phase = .csum := by
  decide

/-- Each accepting phase, with and without a byte of the frame, and a held end. -/
theorem test_meets_StreamEndRaisesIncompleteFrame :
    (∀ s ∈ [State.reset, atPhase .len (regs 1 0 0 0), atPhase .payload (regs 8 4 0 0), atPhase .csum (regs 8 4 4 3)],
        s.inReady = true) ∧ inError.inReady = false := by
  decide

theorem test_meets_HeldByteChangesNothing :
    afterW4.inReady = false ∧ pending.inReady = false ∧ inError.inReady = false := by
  decide

/-- A fresh block with the bytes `bs`, then `tail`, on the stream, and `n` source turns. -/
def fed (bs : List Byte) (tail : List (BitVec 9)) (n : Nat) : State :=
  (State.reset.setStream (bs.map (fun b => 0#1 ++ b) ++ tail)).setTurns (List.replicate n .source)

/-- An empty payload, and one that just fits. -/
theorem test_meets_ReaderAcceptsExactlyOneFrame :
    ∀ p ∈ [[], [0x3F, 0x3F, 0x3F, 0x3F]], ∃ (s : State) (c : U32) (rest : List (BitVec 9)) (ts : List Turn),
      s.rst = false ∧ s.ctrlEn = true ∧ s.phase = .len ∧ s.frame = FrameRegs.init ∧ p.length < 2 ^ 64
        ∧ (∀ n, s.params.capacity = some n → p.length ≤ n)
        ∧ s.env.stream = (be64 (BitVec.ofNat 64 p.length) ++ p ++ be32 c).map (fun b => 0#1 ++ b) ++ rest
        ∧ s.env.turns = List.replicate (12 + p.length) .source ++ ts := by
  intro p hp
  refine ⟨withCapacity p.length (fed (be64 (BitVec.ofNat 64 p.length) ++ p ++ be32 0xE7922DF4) [0x100] (12 + p.length)),
    0xE7922DF4, [0x100], [], rfl, rfl, rfl, rfl, ?_, ?_, rfl, (List.append_nil _).symm⟩
  · revert p; decide
  · intro n hn; cases hn; exact Nat.le_refl _

/-- The cut before the first byte, and on both sides of each segment's end. -/
theorem test_meets_TruncatedFrameIsIncomplete :
    ∀ k ∈ [0, 7, 8, 11, 12, 15], ∃ (s : State) (p : List Byte) (c : U32) (ts : List Turn),
      s.rst = false ∧ s.ctrlEn = true ∧ s.phase = .len ∧ s.frame = FrameRegs.init ∧ p.length < 2 ^ 64
        ∧ (∀ n, s.params.capacity = some n → p.length ≤ n) ∧ k < 12 + p.length
        ∧ s.env.stream =
          ((be64 (BitVec.ofNat 64 p.length) ++ p ++ be32 c).take k).map (fun b => 0#1 ++ b) ++ [0x100]
        ∧ s.env.turns = List.replicate (k + 1) .source ++ ts := by
  intro k hk
  refine ⟨fed ((be64 4 ++ [0x3F, 0x3F, 0x3F, 0x3F] ++ be32 0xE7922DF4).take k) [0x100] (k + 1),
    [0x3F, 0x3F, 0x3F, 0x3F], 0xE7922DF4, [], rfl, rfl, rfl, rfl, by decide, ?_, ?_, rfl, (List.append_nil _).symm⟩
  · intro n hn; cases hn
  · revert k; decide

theorem test_meets_SingleByteChangeIsDetected : ∃ b b' : Byte, b ≠ b' := ⟨0x7B, 0x7A, by decide⟩

theorem test_meets_MismatchDiscardsTheFrame :
    ∃ (s : State) (ts : List Turn), s.env.turns = .block :: ts ∧ s.phase = .eval
      ∧ s.frame.crcReg ^^^ 0xFFFFFFFF#32 ≠ s.frame.csumReg :=
  ⟨turn .block { afterW4 with frame := { afterW4.frame with csumReg := 0xE7922D0B } }, [], by decide⟩

/-- The payload of W4 in a PBUF of exactly its four bytes. -/
theorem test_meets_UnparsedPayloadIsMalformed :
    ∃ (s : State) (ts : List Turn) (p : List Byte), s.env.turns = .block :: ts ∧ s.phase = .eval
      ∧ s.frame.crcReg ^^^ 0xFFFFFFFF#32 = s.frame.csumReg
      ∧ (∀ c, s.params.capacity = some c → s.frame.lenReg.toNat ≤ c)
      ∧ s.pbuf.bytesAt s.pbufEpoch 0 s.frame.lenReg.toNat = p ∧ payloadDecode s.params p = none :=
  ⟨turn .block (withCapacity 4 afterW4), [], [0x3F, 0x3F, 0x3F, 0x3F], rfl, rfl, by decide,
    fun c hc => by cases hc; decide, by decide, by decide⟩

/-- A PBUF whose last byte nothing wrote, in each of the two capacities. -/
theorem test_meets_EvalCompletesWhateverPbufHolds :
    ∀ s ∈ [turn .block { afterW4 with pbuf := [(0, 0x3F), (1, 0x3F), (2, 0x3F)] },
        turn .block (withCapacity 4 { afterW4 with pbuf := [] })],
      s.env.turns = .block :: [] ∧ s.phase = .eval
        ∧ ∀ c, s.params.capacity = some c → s.frame.lenReg.toNat ≤ c := by
  intro s hs
  simp only [List.mem_cons, List.not_mem_nil, or_false] at hs
  rcases hs with rfl | rfl <;> refine ⟨rfl, rfl, fun c hc => ?_⟩ <;> cases hc
  decide

/-- W4 in a PBUF of three bytes. -/
theorem test_meets_EvalOutsidePbufFaults :
    ∃ (s : State) (ts : List Turn) (c : Nat), s.env.turns = .block :: ts ∧ s.phase = .eval
      ∧ s.frame.crcReg ^^^ 0xFFFFFFFF#32 = s.frame.csumReg ∧ s.params.capacity = some c ∧ c < s.frame.lenReg.toNat :=
  ⟨turn .block (withCapacity 3 afterW4), [], 3, by decide⟩

/-- For JsonDecoderMeetsItsGrammar and JsonDecodesEveryCanonicalPayload. -/
theorem test_meets_JsonDecodesEveryCanonicalPayload : Params.defaults.WellFormed := by decide

/-- D-4: 5 data bytes in a payload of 30. -/
theorem test_meets_DecodedDataIsBounded :
    ∃ (p : List Byte) (d : List Byte), decodeJson Params.defaults p = some (255, d) ∧ d.length = 5 :=
  ⟨canonEncode Params.defaults 255 [0, 1, 2, 3, 4], [0, 1, 2, 3, 4], by decide +kernel⟩

/-- The lowest and the highest port, and each reason why a delivery does not happen. -/
theorem test_meets_DeliverHandsTheMessageOver :
    (∀ s ∈ [turn .sink (pending.setReady 0x8), turn .sink ({ pending with msgRoute := .block }.setReady 0x1)],
        s.env.turns = .sink :: [] ∧ s.phase = .deliver ∧ s.env.sinkReady.getLsbD s.msgRoute.bits.toNat = true)
      ∧ ∀ s ∈ [turn .sink (State.reset.setReady 0xF), turn .sink (pending.setReady 0x7)],
        s.env.turns = .sink :: [] ∧ (s.phase ≠ .deliver ∨ s.env.sinkReady.getLsbD s.msgRoute.bits.toNat = false) := by
  decide

/-- The sink's turn, a symbol offered, a CSR read, and a CTRL write of every bit but CLEAR. -/
theorem test_meets_BackpressureHoldsTheBlock :
    ∀ s ∈ [turn .sink (pending.setReady 0x7), offering 0x041 pending, requesting ⟨0x004, 4, 0⟩ pending,
        requesting ⟨0x100, 4, 0xFFFFFEFF⟩ (pending.setReady 0x7)],
      s.phase = .deliver ∧ s.env.sinkReady.getLsbD s.msgRoute.bits.toNat = false ∧ (∃ t, step s = .next t)
        ∧ (∀ l ts, s.env.turns ≠ .rst l :: ts)
        ∧ ∀ ts r rs v, s.env.turns = .host :: ts → s.env.requests = r :: rs → decode (.csr r) = .csrWriteCtrl v →
          v.getLsbD 8 = false := by
  intro s hs
  simp only [List.mem_cons, List.not_mem_nil, or_false] at hs
  rcases hs with rfl | rfl | rfl | rfl <;>
    refine ⟨rfl, by decide, ⟨_, rfl⟩, fun l ts h => (by cases h), fun ts r rs v h hr hd => ?_⟩
  · cases h
  · cases h
  · cases hr; cases hd
  · cases hr; cases hd; decide

/-- A step that emits nothing and one that hands a message over. -/
theorem test_meets_OnlyDeliverEmits :
    (∃ t, step State.reset = .next t) ∧ ∃ t, step (turn .sink (pending.setReady 0x8)) = .next t :=
  ⟨⟨_, rfl⟩, ⟨_, rfl⟩⟩

/-- The smallest discriminant and data, and the largest discriminant. -/
theorem test_meets_FramedMessageIsDelivered :
    ∀ t ∈ [0#8, 255#8], ∃ (s : State) (d : List Byte) (rest : List (BitVec 9)) (ts : List Turn) (n : Nat),
      n = (canonEncode s.params t d).length ∧ n < 2 ^ 64 ∧ s.params.WellFormed ∧ s.params.codec = .jsonStrict
        ∧ (∀ c, s.params.capacity = some c → n ≤ c) ∧ s.rst = false ∧ s.ctrlEn = true ∧ s.phase = .len
        ∧ s.frame = FrameRegs.init ∧ s.env.sinkReady = 0xF
        ∧ s.env.stream = (frameBytes (canonEncode s.params t d)).map (fun b => 0#1 ++ b) ++ rest
        ∧ s.env.turns = List.replicate (12 + n) .source ++ [.block, .sink] ++ ts := by
  intro t ht
  refine ⟨((State.reset.setReady 0xF).setStream
      ((frameBytes (canonEncode Params.defaults t [])).map (fun b => 0#1 ++ b) ++ [])).setTurns
      (List.replicate (12 + (canonEncode Params.defaults t []).length) .source ++ [.block, .sink] ++ []),
    [], [], [], (canonEncode Params.defaults t []).length, rfl, ?_, (by decide : Params.defaults.WellFormed), rfl, ?_,
    rfl, rfl, rfl, rfl, rfl, rfl, rfl⟩
  · revert t; decide
  · intro c hc; cases hc

theorem test_meets_BeatsCarryTheMessage :
    ∃ (m : Message) (i : Nat) (b : Beat), m.beats[i]? = some b ∧ b.last = true ∧ b.first = false :=
  ⟨⟨.transaction, 1, [0x00, 0xFF]⟩, 1, ⟨.transaction, 1, 0xFF, false, true, false⟩, by decide⟩

/-- For the CSR statements of a state with `rst` = 0. -/
theorem test_meets_CsrAnswered : State.reset.rst = false ∧ inError.rst = false ∧ pending.rst = false := by decide

theorem test_meets_CtrlWriteIsIdempotent : ∃ t, exec (.csrWriteCtrl 0x00000301) inError = .next t := ⟨_, rfl⟩

/-- An offset past the last register, an offset between two, a size, a write beside CTRL. -/
theorem test_meets_IllegalRequestChangesNoState :
    inError.rst = false ∧ (Instr.csrIllegal false 0x35 4).WellFormed ∧ (Instr.csrIllegal false 0x01 4).WellFormed
      ∧ (Instr.csrIllegal true 0x00 3).WellFormed ∧ (Instr.csrIllegal true 0x01 4).WellFormed := by
  decide

theorem test_meets_RequestUnderResetIsNotAnswered :
    ∃ (s : State) (r : CsrRequest) (rs : List CsrRequest) (ts : List Turn), s.rst = true
      ∧ s.env.turns = .host :: ts ∧ s.env.requests = r :: rs :=
  ⟨requesting ⟨0x000, 4, 0⟩ { State.reset with rst := true }, ⟨0x000, 4, 0⟩, [], [], by decide⟩

theorem test_meets_PauseKeepsTheFrame :
    ∃ (s t : State) (v : U32), v.getLsbD 0 = false ∧ v.getLsbD 8 = false ∧ exec (.csrWriteCtrl v) s = .next t :=
  ⟨atPhase .payload (regs 8 28 12 0), _, 0, by decide, by decide, rfl⟩

/-- The end of the stream at reset enters ERROR in one step. -/
theorem test_meets_ErrorEntryCountsOneError :
    ∃ s t : State, step s = .next t ∧ s.phase ≠ .error ∧ t.phase = .error :=
  ⟨offering 0x100 State.reset, _, rfl, by decide, rfl⟩

/-- A symbol offered in ERROR, and a CSR read in ERROR. -/
theorem test_meets_ErrorIsSticky :
    ∀ s ∈ [offering 0x000 inError, requesting ⟨0x004, 4, 0⟩ inError], s.phase = .error ∧ (∃ t, step s = .next t)
      ∧ (∀ ts r rs v, s.env.turns = .host :: ts → s.env.requests = r :: rs → decode (.csr r) ≠ .csrWriteCtrl v)
      ∧ ∀ l ts, s.env.turns ≠ .rst l :: ts := by
  intro s hs
  simp only [List.mem_cons, List.not_mem_nil, or_false] at hs
  rcases hs with rfl | rfl
  · refine ⟨rfl, ⟨_, rfl⟩, ?_, ?_⟩
    · intro ts r rs v h; cases h
    · intro l ts h; cases h
  · refine ⟨rfl, ⟨_, rfl⟩, ?_, ?_⟩
    · intro ts r rs v _ h; cases h; simp [decode, decodeCsr, decodeRead, readRows]
    · intro l ts h; cases h

theorem test_meets_UnboundedNeverExceedsCapacity :
    ∃ s t : State, s.params.capacity = none ∧ s.cnt.oversize = 0 ∧ s.err.code ≠ .lengthExceedsCapacity
      ∧ step s = .next t :=
  ⟨offering 0x0FF (atPhase .len (regs 7 0xFFFFFFFFFFFFFF 0 0)), _, rfl, rfl, by decide, rfl⟩

/-- Reset asserted in any state, and released. -/
theorem test_meets_ResetTurnRestoresResetValues :
    (turn (.rst true) pending).env.turns = .rst true :: []
      ∧ (turn (.rst false) { State.reset with rst := true }).env.turns = .rst false :: []
      ∧ (turn (.rst false) { State.reset with rst := true }).rst = true := by
  decide

/-- A symbol and a request under reset. -/
theorem test_meets_ResetHoldsTheBlock :
    ∀ s ∈ [offering 0x041 { State.reset with rst := true }, requesting ⟨0x100, 4, 3⟩ { State.reset with rst := true }],
      s.ResetHeld ∧ (∃ t, step s = .next t) ∧ ∀ l ts, s.env.turns ≠ .rst l :: ts := by
  intro s hs
  simp only [List.mem_cons, List.not_mem_nil, or_false] at hs
  rcases hs with rfl | rfl <;> exact ⟨rfl, ⟨_, rfl⟩, fun l ts h => by cases h⟩

theorem test_meets_TraceLineRunsAfterEval :
    ∃ s t : State, s.env.turns = [] ∧ s.phase = .eval ∧ step s = .next t :=
  have h : gives (step (afterEmpty 200)) (fun t => t.phase == .deliver) = true := by decide +kernel
  have ⟨t, ht, _⟩ := gives_next h
  ⟨afterEmpty 200, t, rfl, rfl, ht⟩

/-- The reset state with a symbol offered meets the invariants and steps. -/
theorem test_meets_EveryStepKeepsTheInvariants :
    ∃ s t : State, s.Inv ∧ step s = .next t :=
  ⟨offering 0x01C State.reset, _,
    ⟨⟨rfl, ⟨by decide, rfl, rfl, rfl⟩⟩, ⟨[], rfl, rfl⟩, ⟨Memory.empty_wf, fun _ _ h => by cases h⟩, rfl, fun h => by cases h⟩, rfl⟩

/-- The invariants hold beyond the reset state: a whole frame that waits for EVAL. For InvariantStatesStepOn. -/
theorem test_meets_InvariantStatesStepOn : ∃ s : State, s.Inv ∧ s.phase = .eval :=
  ⟨afterW4, ⟨⟨rfl, ⟨rfl, rfl, rfl⟩, by intro c h; cases h⟩, ⟨[0x3F, 0x3F, 0x3F, 0x3F], by decide, by decide +kernel⟩,
    ⟨by decide, fun _ _ _ => rfl⟩, by decide +kernel, fun h => by cases h⟩, rfl⟩

/-- A state that meets the invariants with `irq` 1: the end of the stream at reset, IE set. -/
theorem test_meets_IrqIsTheErrorLevel : ∃ s : State, s.Inv ∧ s.irq = true :=
  ⟨{ inError with ctrlIe := true },
    ⟨⟨⟨by decide, rfl, rfl, rfl⟩, by decide⟩, ⟨[], rfl, rfl⟩, ⟨Memory.empty_wf, fun _ _ h => by cases h⟩, rfl, fun h => by cases h⟩,
    rfl⟩

theorem test_meets_StepsKeepTheParameters : ∃ s t : State, step s = .next t := ⟨withCapacity 16 inError, _, rfl⟩

/-- A message of type 3 is written over the reset values, and a reset writes them back. -/
theorem test_meets_OnlyEvalWritesTheMessage :
    (∃ s t : State, step s = .next t ∧ t.msgType ≠ s.msgType ∧ s.phase = .eval)
      ∧ ∃ s t : State, step s = .next t ∧ t.msgRoute ≠ s.msgRoute ∧ s.phase = .deliver := by
  refine ⟨?_, turn (.rst true) pending, _, rfl, by decide, rfl⟩
  have h : gives (step (afterEmpty 3)) (fun t => t.msgType == 3) = true := by decide +kernel
  obtain ⟨t, ht, h3⟩ := gives_next h
  exact ⟨afterEmpty 3, t, ht, by rw [beq_iff_eq.mp h3]; decide, rfl⟩

end Sys2Proof.Tests
end

