-- ==== Sys2Proof/Proofs/Params.lean ====
section
/-! No step changes a parameter (00_scope.md R7 to R10, 10_state.md R56): each composed operation keeps them, hence
every effect a step can have does. -/

namespace Sys2Proof.Machine

@[simp] theorem State.lengthComplete_params (s : State) : s.lengthComplete.params = s.params := by
  rw [State.lengthComplete_eq]
  split
  · exact s.raisePlain_params _
  · exact s.setPhase_params _

@[simp] theorem byteLen_params (b : Byte) (s : State) : (byteLen b s).params = s.params := by
  rcases byteLen_cases b s with ⟨-, h⟩ | ⟨-, h⟩ <;> simp [h]

theorem bytePayload_params {b : Byte} {s t : State} (h : bytePayload b s = .next t) : t.params = s.params := by
  obtain ⟨-, ⟨-, rfl⟩ | ⟨-, rfl⟩⟩ := bytePayload_next h <;> simp

@[simp] theorem byteCsum_params (b : Byte) (s : State) : (byteCsum b s).params = s.params := by
  rcases byteCsum_cases b s with ⟨-, h⟩ | ⟨-, h⟩ <;> simp [h]

@[simp] theorem State.writeCtrl_params (s : State) (v : U32) : (s.writeCtrl v).params = s.params := by
  rw [State.writeCtrl_eq]
  cases ctrlwClear v <;> cases ctrlwCntClr v <;> simp

@[simp] theorem State.deliver_params (s : State) : s.deliver.params = s.params := rfl

/-- Whatever a step does to the block, the parameters stay (R56: they are no state). -/
theorem StepEffect.params_eq {s t : State} {e : Env} (h : StepEffect s e t) : t.params = s.params := by
  cases h with
  | idle => rfl
  | lenByte b => exact byteLen_params b _
  | payloadByte _ _ _ _ hb => simpa using bytePayload_params hb
  | csumByte b => exact byteCsum_params b _
  | streamEnd => exact State.raise_params _ _ _ _
  | mismatch | malformed => exact State.raisePlain_params _ _
  | message => rw [State.setRoute_params, State.latchMessage_params]
  | deliver => exact State.deliver_params _
  | respond r => exact State.respond_params _ r
  | writeCtrl => rw [State.respond_params, State.writeCtrl_params]
  | reset level => exact State.blockReset_params _ level

/-- Settles O56, from the case split over everything a step can do. -/
theorem stepsKeepTheParameters : Obligations.StepsKeepTheParameters := by
  unfold Obligations.StepsKeepTheParameters
  intro s t h
  obtain ⟨_, -, heff⟩ := step_effect h
  exact heff.params_eq

end Sys2Proof.Machine
end

section
/-! What the composed operations of a step leave of the block, and the invariants of 10_state.md R39 operation by
operation. -/

namespace Sys2Proof.Machine

/-! ### The composed operations, field by field -/

/-- A length byte changes `len_cnt`, `len_reg`, `crc_reg`, and with the eighth one the phase, the record and a counter
(R121, R122); no other field. -/
theorem byteLen_eq (b : Byte) (s : State) : ∃ p r c,
    byteLen b s = { s with phase := p, frame := (s.acceptLen b).frame, err := r, cnt := c } := by
  rcases byteLen_cases b s with ⟨-, h⟩ | ⟨-, h⟩ <;> rw [h]
  · exact ⟨_, _, _, rfl⟩
  · rw [State.lengthComplete_eq]
    split <;> exact ⟨_, _, _, rfl⟩

/-- A payload byte changes PBUF, `pay_cnt`, `crc_reg` and perhaps the phase (R124); no other field. -/
theorem bytePayload_eq {b : Byte} {s t : State} (h : bytePayload b s = .next t) :
    ∃ p, t = (s.acceptPayload b).setPhase p := by
  obtain ⟨-, ⟨-, rfl⟩ | ⟨-, rfl⟩⟩ := bytePayload_next h <;> exact ⟨_, rfl⟩

/-- A checksum byte changes `csum_cnt`, `csum_reg` and perhaps the phase (R126); no other field. -/
theorem byteCsum_eq (b : Byte) (s : State) : ∃ p, byteCsum b s = (s.acceptCsum b).setPhase p := by
  rcases byteCsum_cases b s with ⟨-, h⟩ | ⟨-, h⟩ <;> rw [h] <;> exact ⟨_, rfl⟩

/-- CTRL and the counters aside, a CTRL write leaves the state as it was or cleared (R236). -/
theorem State.writeCtrl_cases (s : State) (v : U32) : ∃ en ie c,
    s.writeCtrl v = { s with ctrlEn := en, ctrlIe := ie, cnt := c } ∨
      s.writeCtrl v = { s.clear with ctrlEn := en, ctrlIe := ie, cnt := c } := by
  rw [State.writeCtrl_eq]
  cases ctrlwClear v with
  | false => cases ctrlwCntClr v <;> exact ⟨_, _, _, .inl rfl⟩
  | true => cases ctrlwCntClr v <;> exact ⟨_, _, _, .inr rfl⟩

/-! ### The invariant of each phase (R39) -/

theorem State.fitsCapacity_iff (s : State) : s.FitsCapacity ↔ s.overCapacity = false := by
  rw [← Bool.not_eq_true, State.overCapacity_iff]
  simp [State.FitsCapacity]

theorem State.phaseInv_len {s : State} (h : s.phase = .len) :
    s.PhaseInv ↔ s.err = ErrRecord.clear ∧ s.frame.InLen := by
  simp only [State.PhaseInv, h]

theorem State.phaseInv_payload {s : State} (h : s.phase = .payload) :
    s.PhaseInv ↔ s.err = ErrRecord.clear ∧ s.frame.InPayload ∧ s.FitsCapacity := by
  simp only [State.PhaseInv, h]

theorem State.phaseInv_csum {s : State} (h : s.phase = .csum) :
    s.PhaseInv ↔ s.err = ErrRecord.clear ∧ s.frame.InCsum ∧ s.FitsCapacity := by
  simp only [State.PhaseInv, h]

theorem State.phaseInv_eval {s : State} (h : s.phase = .eval) :
    s.PhaseInv ↔ s.err = ErrRecord.clear ∧ s.frame.Complete ∧ s.FitsCapacity := by
  simp only [State.PhaseInv, h]

theorem State.phaseInv_deliver {s : State} (h : s.phase = .deliver) :
    s.PhaseInv ↔ s.err = ErrRecord.clear ∧ s.frame.Complete ∧ s.FitsCapacity := by
  simp only [State.PhaseInv, h]

/-- A restarted frame with a clear record meets the invariant of LEN (R130). -/
theorem State.phaseInv_of_init {s : State} (hp : s.phase = .len) (hf : s.frame = FrameRegs.init)
    (he : s.err = ErrRecord.clear) : s.PhaseInv :=
  (State.phaseInv_len hp).mpr ⟨he, hf ▸ ⟨by decide, rfl, rfl, rfl⟩⟩

/-! ### The invariant of phase ERROR, error by error -/

theorem State.phaseInv_raise_length (s : State) (bd : Bool) :
    (s.raise .incompleteFrame .length bd).PhaseInv ↔ s.frame.InLen ∧ (bd = true ↔ s.frame.lenCnt = 0#4) :=
  Iff.rfl

theorem State.phaseInv_raise_payload (s : State) (bd : Bool) :
    (s.raise .incompleteFrame .payload bd).PhaseInv ↔ s.frame.InPayload ∧ bd = false ∧ s.FitsCapacity :=
  Iff.rfl

theorem State.phaseInv_raise_checksum (s : State) (bd : Bool) :
    (s.raise .incompleteFrame .checksum bd).PhaseInv ↔ s.frame.InCsum ∧ bd = false ∧ s.FitsCapacity :=
  Iff.rfl

theorem State.phaseInv_raise_oversize (s : State) :
    (s.raisePlain .lengthExceedsCapacity).PhaseInv ↔ s.frame.Oversize ∧ s.overCapacity = true := by
  rw [State.overCapacity_iff]
  exact ⟨fun ⟨hf, _, _, hc⟩ => ⟨hf, hc⟩, fun ⟨hf, hc⟩ => ⟨hf, rfl, rfl, hc⟩⟩

/-- The two errors of EVAL (R152, R189). -/
theorem State.phaseInv_raise_eval {s : State} {c : ErrCode} (hc : c = .checksumMismatch ∨ c = .malformedPayload)
    (hf : s.frame.Complete) (hfit : s.FitsCapacity) : (s.raisePlain c).PhaseInv := by
  rcases hc with rfl | rfl <;> exact ⟨hf, rfl, rfl, hfit⟩

/-- Outside ERROR the record is clear, and in ERROR it holds an error (R32, R39). -/
theorem State.PhaseInv.code_ne_noError_iff {s : State} (h : s.PhaseInv) :
    s.err.code ≠ .noError ↔ s.phase = .error := by
  have clear_code : s.err = ErrRecord.clear → s.err.code = .noError := fun he => he ▸ rfl
  cases hp : s.phase with
  | len => simp [clear_code ((State.phaseInv_len hp).mp h).1]
  | payload => simp [clear_code ((State.phaseInv_payload hp).mp h).1]
  | csum => simp [clear_code ((State.phaseInv_csum hp).mp h).1]
  | eval => simp [clear_code ((State.phaseInv_eval hp).mp h).1]
  | deliver => simp [clear_code ((State.phaseInv_deliver hp).mp h).1]
  | error =>
    refine iff_of_true (fun hc => ?_) rfl
    simp [State.PhaseInv, hp, State.ErrorInv, hc] at h

/-! ### The reader keeps the invariant of its phase -/

/-- LengthComplete on a frame whose eighth length byte is in (R122, R123). -/
theorem State.lengthComplete_phaseInv {s : State} (he : s.err = ErrRecord.clear) (hf : s.frame.Oversize) :
    s.lengthComplete.PhaseInv := by
  rw [State.lengthComplete_eq]
  split
  · rename_i hov
    exact s.phaseInv_raise_oversize.mpr ⟨hf, hov⟩
  · rename_i hov
    have hfit : s.FitsCapacity := s.fitsCapacity_iff.mpr (by simpa using hov)
    obtain ⟨hlen, hpay, hcnt, -⟩ := hf
    split
    · rename_i h0
      exact (State.phaseInv_csum rfl).mpr ⟨he, ⟨hlen, hpay.trans h0.symm, by simp [hcnt]⟩, hfit⟩
    · rename_i h0
      refine (State.phaseInv_payload rfl).mpr ⟨he, ⟨hlen, ?_, hcnt⟩, hfit⟩
      simp only [State.setPhase_frame, hpay]
      bv_omega

theorem byteLen_phaseInv (b : Byte) {s : State} (hp : s.phase = .len) (h : s.PhaseInv) :
    (byteLen b s).PhaseInv := by
  obtain ⟨he, hlen, hpay, hcnt, hreg⟩ := (State.phaseInv_len hp).mp h
  rcases byteLen_cases b s with ⟨hn, heq⟩ | ⟨h8, heq⟩ <;> rw [heq]
  · refine (State.phaseInv_len (s := s.acceptLen b) hp).mpr ⟨he, ?_, hpay, hcnt, hreg⟩
    simp only [State.acceptLen_frame] at hn ⊢
    bv_omega
  · exact State.lengthComplete_phaseInv he ⟨h8, hpay, hcnt, hreg⟩

theorem bytePayload_phaseInv {b : Byte} {s t : State} (hp : s.phase = .payload) (h : s.PhaseInv)
    (ht : bytePayload b s = .next t) : t.PhaseInv := by
  obtain ⟨he, ⟨hlen, hlt, hcnt⟩, hfit⟩ := (State.phaseInv_payload hp).mp h
  obtain ⟨-, ⟨heq, rfl⟩ | ⟨hne, rfl⟩⟩ := bytePayload_next ht
  · exact (State.phaseInv_csum rfl).mpr ⟨he, ⟨hlen, heq, by simp [hcnt]⟩, hfit⟩
  · refine (State.phaseInv_payload (s := s.acceptPayload b) hp).mpr ⟨he, ⟨hlen, ?_, hcnt⟩, hfit⟩
    simp only [State.acceptPayload_frame]
    bv_omega

theorem byteCsum_phaseInv (b : Byte) {s : State} (hp : s.phase = .csum) (h : s.PhaseInv) :
    (byteCsum b s).PhaseInv := by
  obtain ⟨he, ⟨hlen, hpay, hcnt⟩, hfit⟩ := (State.phaseInv_csum hp).mp h
  rcases byteCsum_cases b s with ⟨hn, heq⟩ | ⟨h4, heq⟩ <;> rw [heq]
  · refine (State.phaseInv_csum (s := s.acceptCsum b) hp).mpr ⟨he, ⟨hlen, hpay, ?_⟩, hfit⟩
    simp only [State.acceptCsum_frame] at hn ⊢
    bv_omega
  · exact (State.phaseInv_eval rfl).mpr ⟨he, ⟨hlen, hpay, h4⟩, hfit⟩

/-! ### PBUF and the CRC state -/

theorem State.crcInv_of_init {s : State} (h : s.frame = FrameRegs.init) : s.CrcInv :=
  ⟨[], by rw [h]; rfl, by rw [h]; rfl⟩

/-- One more length byte is the last of the length bytes (R23). -/
theorem lenBytes_acceptLen (s : State) (b : Byte) (h : s.frame.lenCnt.toNat ≤ 7) :
    (s.acceptLen b).frame.lenBytes = s.frame.lenBytes ++ [b] := by
  have hcnt : (s.frame.lenCnt + 1#4).toNat = s.frame.lenCnt.toNat + 1 := by bv_omega
  have hle : 8 - (s.frame.lenCnt.toNat + 1) ≤ ((be64 s.frame.lenReg).drop 1).length := by simp
  have hsum : 1 + (8 - (s.frame.lenCnt.toNat + 1)) = 8 - s.frame.lenCnt.toNat := by omega
  simp only [State.acceptLen_frame, FrameRegs.lenBytes, hcnt, be64_shiftInLen]
  rw [List.drop_append_of_le_length hle, List.drop_drop, hsum]

theorem byteLen_crcInv (b : Byte) {s : State} (hf : s.frame.InLen) (h : s.CrcInv) : (byteLen b s).CrcInv := by
  obtain ⟨hlen, hpay, -, -⟩ := hf
  obtain ⟨p, hp, hcrc⟩ := h
  obtain rfl : p = [] := by simpa [hpay, Memory.readBytes] using hp.symm
  obtain ⟨_, _, _, heq⟩ := byteLen_eq b s
  rw [heq]
  refine ⟨[], hp, ?_⟩
  show crcStep s.frame.crcReg b = crcRun _ ((s.acceptLen b).frame.lenBytes ++ [])
  rw [lenBytes_acceptLen s b hlen, hcrc, List.append_nil, List.append_nil, crcRun_append]
  rfl

theorem bytePayload_crcInv {b : Byte} {s t : State} (hf : s.frame.InPayload) (h : s.CrcInv)
    (ht : bytePayload b s = .next t) : t.CrcInv := by
  obtain ⟨-, hlt, -⟩ := hf
  obtain ⟨p, hp, hcrc⟩ := h
  obtain ⟨_, rfl⟩ := bytePayload_eq ht
  have hcnt : (s.frame.payCnt + 1#64).toNat = s.frame.payCnt.toNat + 1 := by bv_omega
  refine ⟨p ++ [b], ?_, ?_⟩
  · simp only [State.setPhase_pbuf, State.setPhase_frame, State.acceptPayload_pbuf, State.acceptPayload_frame, hcnt]
    exact Memory.readBytes_write_append b hp
  · show crcStep s.frame.crcReg b = crcRun _ (s.frame.lenBytes ++ (p ++ [b]))
    rw [hcrc, ← List.append_assoc, crcRun_append _ (s.frame.lenBytes ++ p)]
    rfl

theorem State.pbufInv_of_nil {s : State} (h : s.pbuf = []) : s.PbufInv :=
  ⟨h ▸ Memory.empty_wf, fun i b hr => by simp [h] at hr⟩

theorem bytePayload_pbufInv {b : Byte} {s t : State} (h : s.PbufInv) (ht : bytePayload b s = .next t) :
    t.PbufInv := by
  obtain ⟨hwf, hidx⟩ := h
  obtain ⟨hi, -⟩ := bytePayload_next ht
  obtain ⟨_, rfl⟩ := bytePayload_eq ht
  refine ⟨Memory.write_wf _ b hwf, fun i b' hr => ?_⟩
  by_cases hne : i = s.frame.payCnt.toNat
  · exact hne ▸ hi
  · simp only [State.setPhase_pbuf, State.acceptPayload_pbuf, Memory.read_write_of_ne _ b hne] at hr
    exact hidx i b' hr

/-! ### Every effect of a step keeps the invariants -/

variable {s t : State} {e : Env}

theorem StepEffect.phaseInv (h : StepEffect s e t) (hi : s.PhaseInv) : t.PhaseInv := by
  have hie : (s.setEnv e).PhaseInv := hi
  cases h with
  | idle | respond => exact hi
  | lenByte b _ hp => exact byteLen_phaseInv b hp hie
  | payloadByte b _ _ hp ht => exact bytePayload_phaseInv (s := s.setEnv e) hp hie ht
  | csumByte b _ hp => exact byteCsum_phaseInv b hp hie
  | streamEnd _ _ _ hseg =>
    rcases hseg with ⟨hp, rfl, rfl⟩ | ⟨hp, rfl, rfl⟩ | ⟨hp, rfl, rfl⟩
    · obtain ⟨-, hf⟩ := (State.phaseInv_len hp).mp hi
      exact (State.phaseInv_raise_length _ _).mpr ⟨hf, beq_iff_eq⟩
    · obtain ⟨-, hf, hfit⟩ := (State.phaseInv_payload hp).mp hi
      exact (State.phaseInv_raise_payload _ _).mpr ⟨hf, rfl, hfit⟩
    · obtain ⟨-, hf, hfit⟩ := (State.phaseInv_csum hp).mp hi
      exact (State.phaseInv_raise_checksum _ _).mpr ⟨hf, rfl, hfit⟩
  | mismatch hp =>
    obtain ⟨-, hf, hfit⟩ := (State.phaseInv_eval hp).mp hi
    exact State.phaseInv_raise_eval (.inl rfl) hf hfit
  | malformed hp =>
    obtain ⟨-, hf, hfit⟩ := (State.phaseInv_eval hp).mp hi
    exact State.phaseInv_raise_eval (.inr rfl) hf hfit
  | message _ _ hp => exact (State.phaseInv_deliver rfl).mpr ((State.phaseInv_eval hp).mp hi)
  | deliver _ _ hp =>
    obtain ⟨he, -⟩ := (State.phaseInv_deliver hp).mp hi
    exact State.phaseInv_of_init rfl rfl he
  | writeCtrl r =>
    obtain ⟨_, _, _, h | h⟩ := (s.setEnv e).writeCtrl_cases r.wdata <;> rw [h]
    · exact hi
    · exact State.phaseInv_of_init rfl rfl rfl
  | reset => exact State.phaseInv_of_init rfl rfl rfl

theorem StepEffect.crcInv (h : StepEffect s e t) (hi : s.PhaseInv) (hc : s.CrcInv) : t.CrcInv := by
  have hce : (s.setEnv e).CrcInv := hc
  cases h with
  | idle | respond | streamEnd | mismatch | malformed | message => exact hc
  | lenByte b _ hp => exact byteLen_crcInv b ((State.phaseInv_len hp).mp hi).2 hce
  | payloadByte b _ _ hp ht =>
    obtain ⟨-, hf, -⟩ := (State.phaseInv_payload hp).mp hi
    exact bytePayload_crcInv (s := s.setEnv e) hf hce ht
  | csumByte b =>
    obtain ⟨_, h⟩ := byteCsum_eq b (s.setEnv e)
    rw [h]
    exact hc
  | writeCtrl r =>
    obtain ⟨_, _, _, h | h⟩ := (s.setEnv e).writeCtrl_cases r.wdata <;> rw [h]
    · exact hc
    · exact State.crcInv_of_init rfl
  | deliver | reset => exact State.crcInv_of_init rfl

theorem StepEffect.pbufInv (h : StepEffect s e t) (hb : s.PbufInv) : t.PbufInv := by
  have hbe : (s.setEnv e).PbufInv := hb
  cases h with
  | idle | respond | streamEnd | mismatch | malformed | message | deliver => exact hb
  | lenByte b =>
    obtain ⟨_, _, _, h⟩ := byteLen_eq b (s.setEnv e)
    rw [h]
    exact hb
  | payloadByte b _ _ _ ht => exact bytePayload_pbufInv hbe ht
  | csumByte b =>
    obtain ⟨_, h⟩ := byteCsum_eq b (s.setEnv e)
    rw [h]
    exact hb
  | writeCtrl r =>
    obtain ⟨_, _, _, h | h⟩ := (s.setEnv e).writeCtrl_cases r.wdata <;> rw [h] <;> exact hb
  | reset => exact State.pbufInv_of_nil rfl

/-- `msg_type` and `msg_route` stay, or are written by a good EVAL, or by reset (R29, R30). -/
theorem StepEffect.message_cases (h : StepEffect s e t) :
    (t.msgType = s.msgType ∧ t.msgRoute = s.msgRoute) ∨
      (s.phase = .eval ∧ t.phase = .deliver ∧ t.msgRoute = classify t.msgType) ∨
      ((∃ l ts, s.env.turns = .rst l :: ts) ∧ t.msgType = 0 ∧ t.msgRoute = .block) := by
  cases h with
  | idle | respond | streamEnd | mismatch | malformed | deliver => exact .inl ⟨rfl, rfl⟩
  | lenByte b =>
    obtain ⟨_, _, _, h⟩ := byteLen_eq b (s.setEnv e)
    exact .inl (h ▸ ⟨rfl, rfl⟩)
  | payloadByte b _ _ _ ht =>
    obtain ⟨_, rfl⟩ := bytePayload_eq ht
    exact .inl ⟨rfl, rfl⟩
  | csumByte b =>
    obtain ⟨_, h⟩ := byteCsum_eq b (s.setEnv e)
    exact .inl (h ▸ ⟨rfl, rfl⟩)
  | message _ _ hp => exact .inr (.inl ⟨hp, rfl, rfl⟩)
  | writeCtrl r =>
    obtain ⟨_, _, _, h | h⟩ := (s.setEnv e).writeCtrl_cases r.wdata <;> exact .inl (h ▸ ⟨rfl, rfl⟩)
  | reset l ts ht => exact .inr (.inr ⟨⟨l, ts, ht⟩, rfl, rfl⟩)

theorem StepEffect.route (h : StepEffect s e t) (hr : s.msgRoute = classify s.msgType) :
    t.msgRoute = classify t.msgType := by
  rcases h.message_cases with ⟨htype, hroute⟩ | ⟨-, -, hroute⟩ | ⟨-, htype, hroute⟩
  · rw [htype, hroute, hr]
  · exact hroute
  · rw [htype, hroute]
    rfl

/-- Only reset drives `rst`; any other effect on the block is one of a state with `rst` 0, or of the block's or the
sink's turn in EVAL or DELIVER. -/
theorem StepEffect.rst_cases (h : StepEffect s e t) :
    t = s.setEnv e ∨ (t.rst = s.rst ∧ (s.rst = false ∨ s.phase = .eval ∨ s.phase = .deliver)) ∨
      ∃ l, t = (s.setEnv e).blockReset l := by
  have rst_of_inReady (hr : s.inReady = true) : s.rst = false := (s.inReady_iff.mp hr).1
  cases h with
  | idle => exact .inl rfl
  | lenByte b hr =>
    obtain ⟨_, _, _, h⟩ := byteLen_eq b (s.setEnv e)
    exact .inr (.inl ⟨h ▸ rfl, .inl (rst_of_inReady hr)⟩)
  | payloadByte b _ hr _ ht =>
    obtain ⟨_, rfl⟩ := bytePayload_eq ht
    exact .inr (.inl ⟨rfl, .inl (rst_of_inReady hr)⟩)
  | csumByte b hr =>
    obtain ⟨_, h⟩ := byteCsum_eq b (s.setEnv e)
    exact .inr (.inl ⟨h ▸ rfl, .inl (rst_of_inReady hr)⟩)
  | streamEnd _ _ hr => exact .inr (.inl ⟨rfl, .inl (rst_of_inReady hr)⟩)
  | mismatch hp | malformed hp | message _ _ hp => exact .inr (.inl ⟨rfl, .inr (.inl hp)⟩)
  | deliver _ _ hp => exact .inr (.inl ⟨rfl, .inr (.inr hp)⟩)
  | respond _ hr => exact .inr (.inl ⟨rfl, .inl hr⟩)
  | writeCtrl r _ _ hr =>
    obtain ⟨_, _, _, h | h⟩ := (s.setEnv e).writeCtrl_cases r.wdata <;>
      exact .inr (.inl ⟨h ▸ rfl, .inl hr⟩)
  | reset l => exact .inr (.inr ⟨l, rfl⟩)

/-- The block held in reset is in phase LEN. -/
theorem State.ResetHeld.phase_eq (h : s.ResetHeld) : s.phase = .len := by
  unfold State.ResetHeld at h
  rw [h]
  rfl

theorem StepEffect.resetHeld (h : StepEffect s e t) (hs : s.rst = true → s.ResetHeld) (ht : t.rst = true) :
    t.ResetHeld := by
  rcases h.rst_cases with rfl | ⟨hrst, hwhy⟩ | ⟨l, rfl⟩
  · exact congrArg (State.setEnv · e) (hs ht)
  · have hst : s.rst = true := hrst ▸ ht
    have hp : s.phase = .len := (hs hst).phase_eq
    simp [hst, hp] at hwhy
  · obtain rfl : l = true := ht
    rfl

theorem StepEffect.inv (h : StepEffect s e t) (hi : s.Inv) : t.Inv where
  phase := h.phaseInv hi.phase
  crc := h.crcInv hi.phase hi.crc
  pbuf := h.pbufInv hi.pbuf
  route := h.route hi.route
  rst := h.resetHeld hi.rst

end Sys2Proof.Machine
end

section
/-! The state's statements (10_state.md): the invariants at reset and after every step, and what they give. -/

namespace Sys2Proof.Machine

/-- Settles O54: a step is one of the effects of `StepEffect`, and each keeps every part of the invariants. -/
theorem everyStepKeepsTheInvariants : Obligations.EveryStepKeepsTheInvariants := by
  unfold Obligations.EveryStepKeepsTheInvariants
  intro s t hi h
  obtain ⟨_, -, heff⟩ := step_effect h
  exact heff.inv hi

/-- Settles O53. -/
theorem resetMeetsTheInvariants : Obligations.ResetMeetsTheInvariants := by
  unfold Obligations.ResetMeetsTheInvariants
  intro k
  exact {
    phase := State.phaseInv_of_init rfl rfl rfl
    crc := State.crcInv_of_init rfl
    pbuf := State.pbufInv_of_nil rfl
    route := rfl
    rst := fun h => absurd h Bool.false_ne_true }

/-- Settles O57, from what a step can do to the message. -/
theorem onlyEvalWritesTheMessage : Obligations.OnlyEvalWritesTheMessage := by
  unfold Obligations.OnlyEvalWritesTheMessage
  intro s t h hne
  obtain ⟨_, -, heff⟩ := step_effect h
  rcases heff.message_cases with ⟨htype, hroute⟩ | hw
  · exact absurd hne (by simp [htype, hroute])
  · exact hw

/-- Settles O49: under R39 the record holds an error exactly in phase ERROR. -/
theorem irqIsTheErrorLevel : Obligations.IrqIsTheErrorLevel := by
  unfold Obligations.IrqIsTheErrorLevel
  intro s hi
  rw [← hi.phase.code_ne_noError_iff]
  simp [State.irq]

/-- Settles O51: each row of the table is read off the reset state. -/
theorem resetLeavesTheTableValues : Obligations.ResetLeavesTheTableValues := by
  unfold Obligations.ResetLeavesTheTableValues
  exact ⟨rfl, rfl, rfl, rfl, rfl, rfl, rfl, rfl, rfl, rfl, rfl, rfl, fun _ => rfl⟩

end Sys2Proof.Machine
end

section
/-! The turns of the agents and EVAL, in states a statement names by their fields (00_scope.md R6, 10_state.md R25). -/

namespace Sys2Proof.Machine

theorem step_of_turns {s : State} {t : Turn} {ts : List Turn} (h : s.env.turns = t :: ts) :
    step s = runTurn t (s.setTurns ts) := by
  unfold step
  rw [h]

/-- A symbol offered where `in_ready` is 1 is taken and run (R51). -/
theorem sourceTurn_of_ready {s : State} {w : BitVec 9} {ws : List (BitVec 9)} (h : s.env.stream = w :: ws)
    (hr : s.inReady = true) : sourceTurn s = exec (decode (.sym w)) (s.setStream ws) := by
  unfold sourceTurn
  rw [h]
  simp only [hr, if_true]

theorem execInByte_payload {s : State} (b : Byte) (hr : s.inReady = true) (hp : s.phase = .payload) :
    execInByte b s = bytePayload b s := by
  unfold execInByte
  rw [if_pos hr, hp]

/-- EVAL of a frame that fits PBUF answers one of its three outcomes (R152, R189). -/
theorem evalStep_of_fits {s : State} (hp : s.phase = .eval) (hfit : s.FitsCapacity) :
    (∃ c, evalStep s = .next (s.raisePlain c)) ∨
      ∃ k d, evalStep s = .next ((s.latchMessage k d).setRoute (classify k)) := by
  unfold evalStep
  rw [if_pos hp]
  split
  · unfold decodeAndRoute
    rw [s.fitsCapacity_iff.mp hfit, if_neg Bool.false_ne_true]
    cases payloadDecode s.params s.payloadBytes with
    | none => exact .inl ⟨_, rfl⟩
    | some m =>
      obtain ⟨k, d⟩ := m
      exact .inr ⟨k, d, exec_disc k d s⟩
  · exact .inl ⟨_, rfl⟩

/-- EVAL of a verified frame longer than PBUF needs an index PBUF does not have (R25, log 11). -/
theorem evalStep_of_overCapacity {s : State} (hp : s.phase = .eval) (hc : s.frame.crcCalc = s.frame.csumReg)
    (hov : s.overCapacity = true) : evalStep s = .fault .pbufOutOfRange := by
  unfold evalStep decodeAndRoute
  rw [if_pos hp, if_pos hc, if_pos hov]

/-- Settles O6. -/
theorem offeredSymbolRunsItsOperation : Obligations.OfferedSymbolRunsItsOperation := by
  unfold Obligations.OfferedSymbolRunsItsOperation
  intro s ts w ws hturn hstream hr
  rw [step_of_turns hturn]
  exact sourceTurn_of_ready (s := s.setTurns ts) hstream hr

/-- Settles O14. -/
theorem payloadByteOutsidePbufFaults : Obligations.PayloadByteOutsidePbufFaults := by
  unfold Obligations.PayloadByteOutsidePbufFaults
  intro s b c hr hp hcap hle
  have hidx : s.pbufIndex s.frame.payCnt.toNat ≠ true := fun h =>
    absurd ((s.pbufIndex_iff _).mp h c hcap) (Nat.not_lt.mpr hle)
  calc exec (.inByte b) s
      = bytePayload b s := execInByte_payload b hr hp
    _ = .fault .pbufOutOfRange := if_neg hidx

/-- Settles O25: whichever outcome EVAL has, it writes the record or the message only. -/
theorem evalCompletesWhateverPbufHolds : Obligations.EvalCompletesWhateverPbufHolds := by
  unfold Obligations.EvalCompletesWhateverPbufHolds
  intro s ts hturn hp hfit
  rw [step_of_turns hturn]
  rcases evalStep_of_fits (s := s.setTurns ts) hp hfit with ⟨c, h⟩ | ⟨k, d, h⟩
  · exact ⟨_, h, .inr rfl, rfl, rfl, rfl, rfl⟩
  · exact ⟨_, h, .inl rfl, rfl, rfl, rfl, rfl⟩

/-- Settles O58. -/
theorem evalOutsidePbufFaults : Obligations.EvalOutsidePbufFaults := by
  unfold Obligations.EvalOutsidePbufFaults
  intro s ts c hturn hp hcrc hcap hlt
  rw [step_of_turns hturn]
  exact evalStep_of_overCapacity (s := s.setTurns ts) hp hcrc ((State.overCapacity_iff _).mpr ⟨c, hcap, hlt⟩)

end Sys2Proof.Machine
end

section
/-! The beats of a message on its port (10_state.md R52). -/

namespace Sys2Proof.Machine

theorem dataBeats_length (port : Route) (disc : Byte) (first : Bool) (l : List Byte) :
    (dataBeats port disc first l).length = l.length := by
  induction l generalizing first with
  | nil => rfl
  | cons b rest ih => simp [dataBeats, ih]

/-- Beat `i` of a run of data beats: byte `i`, last at the end of the run, and first only where the run starts the
message. -/
theorem dataBeats_getElem? {port : Route} {disc : Byte} {first : Bool} {l : List Byte} {i : Nat} {b : Beat}
    (h : (dataBeats port disc first l)[i]? = some b) :
    b = ⟨port, disc, l.getD i 0, first && decide (i = 0), decide (i + 1 = l.length), false⟩ := by
  induction l generalizing first i with
  | nil => simp [dataBeats] at h
  | cons x rest ih =>
    cases i with
    | zero =>
      obtain rfl := Option.some.inj h
      cases rest <;> simp
    | succ i => simpa using ih h

/-- A message with data is the run of its data beats; an empty one is the single empty beat. -/
theorem Message.beats_eq (m : Message) : m.beats =
    if m.data = [] then [⟨m.port, m.disc, 0, true, true, true⟩] else dataBeats m.port m.disc true m.data := by
  unfold Message.beats
  cases m.data <;> simp

/-- Settles O34. -/
theorem beatsCarryTheMessage : Obligations.BeatsCarryTheMessage := by
  unfold Obligations.BeatsCarryTheMessage
  intro m
  rw [Message.beats_eq]
  split
  · rename_i hd
    refine ⟨by simp [hd], fun i b h => ?_⟩
    obtain ⟨rfl, rfl⟩ : i = 0 ∧ _ = b := by simpa [List.getElem?_singleton] using h
    simp [hd]
  · rename_i hd
    have hpos : 0 < m.data.length := List.length_pos_iff.mpr hd
    refine ⟨by rw [dataBeats_length]; omega, fun i b h => ?_⟩
    rw [dataBeats_getElem? h, dataBeats_length]
    simp [hd]

end Sys2Proof.Machine
end

section
/-! The bound on decoded data (10_state.md R31, 42_payload_decoder.md R185): what each stage of R188 reads is a part of
the payload, and base64 spells at most three bytes for each four. -/

namespace Sys2Proof.Machine

theorem base64Text_length_le {l d : List Byte} (h : Base64Text l d) : d.length ≤ 3 * (l.length / 4) := by
  induction h with
  | empty => simp
  | full _ _ _ _ _ ih => simp only [List.length_cons]; omega
  | pad1 | pad2 => simp

theorem skipWs_length_le (p : List Byte) : (skipWs p).length ≤ p.length := by
  obtain ⟨w, -, hp, -⟩ := skipWs_split p
  have := congrArg List.length hp
  simp only [List.length_append] at this
  omega

theorem expectByte_length_le {c : Byte} {p r : List Byte} (h : expectByte c p = some r) : r.length ≤ p.length := by
  simp [expectByte_eq_some.mp h]

theorem scanString_length_le {p body r : List Byte} (h : scanString p = some (body, r)) :
    body.length ≤ p.length ∧ r.length ≤ p.length := by
  obtain ⟨rfl, -⟩ := scanString_eq_some.mp h
  simp only [quoted, List.length_append, List.length_cons]
  omega

theorem parseUint8_length_le {p r : List Byte} {t : Byte} (h : parseUint8 p = some (t, r)) :
    r.length ≤ p.length := by
  obtain ⟨lit, rfl, -⟩ := parseUint8_eq_some.mp h
  simp

theorem parseBase64_length_le {p r d : List Byte} (h : parseBase64 p = some (d, r)) :
    d.length ≤ 3 * (p.length / 4) ∧ r.length ≤ p.length := by
  obtain ⟨⟨body, q⟩, hs, hm⟩ := Option.bind_eq_some_iff.mp h
  obtain ⟨_, hd, he⟩ := Option.map_eq_some_iff.mp hm
  obtain ⟨rfl, rfl⟩ := Prod.mk.inj he
  obtain ⟨hbody, hr⟩ := scanString_length_le hs
  have hlen := base64Text_length_le (b64Decode_eq_some.mp hd)
  exact ⟨hlen.trans (Nat.mul_le_mul_left 3 (Nat.div_le_div_right hbody)), hr⟩

/-- The data read so far obeys the bound for a payload of `n` bytes. -/
def Members.DataWithin (n : Nat) (m : Members) : Prop :=
  ∀ d, m.d = some d → d.length ≤ 3 * (n / 4)

theorem parseValue_dataWithin {k : Params} {key p r : List Byte} {m m' : Members} {n : Nat}
    (h : parseValue k key m p = some (m', r)) (hm : m.DataWithin n) (hp : p.length ≤ n) :
    m'.DataWithin n ∧ r.length ≤ n := by
  unfold parseValue at h
  split at h
  · obtain ⟨⟨t, q⟩, hu, he⟩ := Option.map_eq_some_iff.mp h
    obtain ⟨rfl, rfl⟩ := Prod.mk.inj he
    exact ⟨hm, (parseUint8_length_le hu).trans hp⟩
  · split at h
    · obtain ⟨⟨d, q⟩, hb, he⟩ := Option.map_eq_some_iff.mp h
      obtain ⟨rfl, rfl⟩ := Prod.mk.inj he
      obtain ⟨hd, hq⟩ := parseBase64_length_le hb
      refine ⟨fun d' hd' => ?_, hq.trans hp⟩
      obtain rfl := Option.some.inj hd'
      exact hd.trans (Nat.mul_le_mul_left 3 (Nat.div_le_div_right hp))
    · cases h

theorem parseMember_dataWithin {k : Params} {p r : List Byte} {m m' : Members} {n : Nat}
    (h : parseMember k m p = some (m', r)) (hm : m.DataWithin n) (hp : p.length ≤ n) :
    m'.DataWithin n ∧ r.length ≤ n := by
  obtain ⟨⟨key, q0⟩, hkey, h⟩ := Option.bind_eq_some_iff.mp h
  obtain ⟨q1, hcolon, h⟩ := Option.bind_eq_some_iff.mp h
  obtain ⟨⟨_, q2⟩, hval, he⟩ := Option.map_eq_some_iff.mp h
  obtain ⟨rfl, rfl⟩ := Prod.mk.inj he
  have hq0 : q0.length ≤ n := (scanString_length_le hkey).2.trans ((skipWs_length_le p).trans hp)
  have hq1 : q1.length ≤ n := (expectByte_length_le hcolon).trans ((skipWs_length_le q0).trans hq0)
  obtain ⟨hm', hq2⟩ := parseValue_dataWithin hval hm ((skipWs_length_le q1).trans hq1)
  exact ⟨hm', (skipWs_length_le q2).trans hq2⟩

/-- Settles O28: each of the two members reads from what is left of the payload. -/
theorem decodedDataIsBounded : Obligations.DecodedDataIsBounded := by
  unfold Obligations.DecodedDataIsBounded
  intro k p t d h
  obtain ⟨p1, hopen, h⟩ := Option.bind_eq_some_iff.mp h
  obtain ⟨⟨m1, r1⟩, hm1, h⟩ := Option.bind_eq_some_iff.mp h
  obtain ⟨p2, hcomma, h⟩ := Option.bind_eq_some_iff.mp h
  obtain ⟨⟨m2, r2⟩, hm2, h⟩ := Option.bind_eq_some_iff.mp h
  obtain ⟨p3, -, h⟩ := Option.bind_eq_some_iff.mp h
  have hp1 : p1.length ≤ p.length := (expectByte_length_le hopen).trans (skipWs_length_le p)
  have none_within : Members.DataWithin p.length ⟨none, none⟩ := fun _ hd => nomatch hd
  obtain ⟨hw1, hr1⟩ := parseMember_dataWithin hm1 none_within hp1
  obtain ⟨hw2, -⟩ := parseMember_dataWithin hm2 hw1 ((expectByte_length_le hcomma).trans hr1)
  split at h
  · obtain ⟨_, -, h⟩ := Option.bind_eq_some_iff.mp h
    obtain ⟨d', hd', he⟩ := Option.map_eq_some_iff.mp h
    obtain ⟨rfl, rfl⟩ := Prod.mk.inj he
    exact hw2 d' hd'
  · cases h

end Sys2Proof.Machine
end

section
/-! The length register as a concatenation of bytes (20_memory.md R74), and a CTRL write made twice (R81). -/

namespace Sys2Proof.Machine

/-- Shifting a byte into `len_reg` appends it below the bytes already there; what exceeds 64 bits falls off the top. -/
theorem shiftInLen_setWidth {w : Nat} (x : BitVec w) (b : Byte) :
    shiftInLen (x.setWidth 64) b = (x ++ b).setWidth 64 := by
  have hb := b.isLt
  apply BitVec.eq_of_toNat_eq
  rw [shiftInLen_toNat, BitVec.toNat_setWidth, BitVec.toNat_setWidth, BitVec.toNat_append,
    ← Nat.shiftLeft_add_eq_or_of_lt hb, Nat.shiftLeft_eq]
  omega

theorem shiftInLen_zero (b : Byte) : shiftInLen 0#64 b = b.setWidth 64 := by
  simp [shiftInLen]

/-- Settles O10: the first byte is the whole value of the zero register, and each later one is appended to it. -/
theorem lengthBytesAreBigEndian : Obligations.LengthBytesAreBigEndian := by
  unfold Obligations.LengthBytesAreBigEndian
  intro l0 l1 l2 l3 l4 l5 l6 l7 s hzero
  simp only [State.acceptLen_frame, hzero, shiftInLen_zero, shiftInLen_setWidth]
  exact BitVec.setWidth_eq _

/-- A CTRL write sets EN, IE and what its actions clear to values of its data word alone (R236 to R239), so a second
one finds them so, whatever the response between the two. -/
theorem State.writeCtrl_respond_writeCtrl (s : State) (v : U32) (r : CsrResponse) :
    ((s.writeCtrl v).respond r).writeCtrl v = (s.writeCtrl v).respond r := by
  simp only [State.writeCtrl_eq]
  cases ctrlwClear v <;> cases ctrlwCntClr v <;> rfl

/-- An access whose answer changes nothing is the same answered or not. -/
theorem csrAccess_self (s : State) : csrAccess s s = .next s := ite_self _

/-- Settles O43: while `rst` is 1 neither write is answered; otherwise the second is answered as the first was. -/
theorem ctrlWriteIsIdempotent : Obligations.CtrlWriteIsIdempotent := by
  unfold Obligations.CtrlWriteIsIdempotent
  intro s t v h
  rcases csrAccess_next h with ⟨-, rfl⟩ | ⟨-, rfl⟩
  · exact h
  · show csrAccess _ (State.respond (State.writeCtrl _ v) _) = _
    rw [State.writeCtrl_respond_writeCtrl]
    exact csrAccess_self _

end Sys2Proof.Machine
end

section
/-! The three selecting formats (30_encoding.md R92, R93, R95): an encoded thing as its fields, what its fields decode
to, and from these the statements about decoding and encoding. -/

namespace Sys2Proof

/-! ### The nine-bit word of SYM and CSR: one bit above a byte -/

theorem ofBool_append_getLsbD_8 (c : Bool) (b : Byte) : (BitVec.ofBool c ++ b).getLsbD 8 = c := by
  rw [BitVec.getLsbD_append]
  simp

theorem ofBool_append_extractLsb' (c : Bool) (b : Byte) : (BitVec.ofBool c ++ b).extractLsb' 0 8 = b := by
  apply BitVec.eq_of_getLsbD_eq
  intro i hi
  rw [BitVec.getLsbD_extractLsb', Nat.zero_add, BitVec.getLsbD_append]
  simp [hi]

theorem ofBool_append_fields (w : BitVec 9) : BitVec.ofBool (w.getLsbD 8) ++ w.extractLsb' 0 8 = w := by
  apply BitVec.eq_of_getLsbD_eq
  intro i hi
  rw [BitVec.getLsbD_append]
  split
  · rename_i hlt
    simp [hlt]
  · obtain rfl : i = 8 := by omega
    simp

/-! ### SYM and DISC -/

theorem decode_sym (e : Bool) (b : Byte) :
    decode (.sym (BitVec.ofBool e ++ b)) = if e then .inEnd else .inByte b := by
  show decodeSym _ = _
  unfold decodeSym
  rw [ofBool_append_getLsbD_8, ofBool_append_extractLsb']

/-- The discriminants 0, 1 and 2 name the known routes, and every other value is ROUTE.UNRECOGNIZED (R93). -/
theorem decode_disc_cases (t : Byte) :
    (t = 0#8 ∧ decode (.disc t) = .routeBlock) ∨ (t = 1#8 ∧ decode (.disc t) = .routeTransaction) ∨
      (t = 2#8 ∧ decode (.disc t) = .routeConsensus) ∨ (3 ≤ t.toNat ∧ decode (.disc t) = .routeUnrecognized t) := by
  by_cases h0 : t = 0#8
  · exact .inl ⟨h0, h0 ▸ rfl⟩
  by_cases h1 : t = 1#8
  · exact .inr (.inl ⟨h1, h1 ▸ rfl⟩)
  by_cases h2 : t = 2#8
  · exact .inr (.inr (.inl ⟨h2, h2 ▸ rfl⟩))
  · refine .inr (.inr (.inr ⟨by bv_omega, ?_⟩))
    show decodeDisc t = _
    unfold decodeDisc
    rw [if_neg h0, if_neg h1, if_neg h2]

/-! ### CSR -/

/-- Every request is given by its fields WE, OFF, SZ and data. -/
theorem csrRequest_fields (r : CsrRequest) :
    csrRequest (r.sel.getLsbD 8) (r.sel.extractLsb' 0 8) r.size r.wdata = r := by
  unfold csrRequest
  rw [ofBool_append_fields]

/-- The selector 0x100 is the one of a CTRL write. -/
theorem csrRequest_sel_eq_iff (we : Bool) (off : Byte) (size : Nat) (v : U32) :
    (csrRequest we off size v).sel = 0x100 ↔ we = true ∧ off = 0#8 := by
  constructor
  · intro h
    have hsel : BitVec.ofBool we ++ off = 0x100 := h
    refine ⟨?_, ?_⟩
    · rw [← ofBool_append_getLsbD_8 we off, hsel]
      rfl
    · rw [← ofBool_append_extractLsb' we off, hsel]
      rfl
  · rintro ⟨rfl, rfl⟩
    rfl

/-- A data word survives in the canonical form of a legal CTRL write only. -/
theorem canonical_csrRequest (we : Bool) (off : Byte) (size : Nat) (v : U32) :
    (Encoding.csr (csrRequest we off size v)).canonical =
      .csr (csrRequest we off size (if size = 4 ∧ we = true ∧ off = 0#8 then v else 0)) := by
  unfold Encoding.canonical
  simp only [csrRequest_sel_eq_iff]
  by_cases h : size = 4 ∧ we = true ∧ off = 0#8
  · rw [if_pos h]
    exact if_pos h
  · rw [if_neg h]
    exact if_neg h

theorem decode_csrRequest (we : Bool) (off : Byte) (size : Nat) (v : U32) :
    decode (.csr (csrRequest we off size v)) =
      if size = 4 then
        if we then (if off = 0#8 then .csrWriteCtrl v else .csrIllegal we off size)
        else (decodeRead off).getD (.csrIllegal we off size)
      else .csrIllegal we off size := by
  show decodeCsr (csrRequest we off size v) = _
  simp only [decodeCsr, csrRequest, ofBool_append_getLsbD_8, ofBool_append_extractLsb', BitVec.ofNat_eq_ofNat]

/-- Each row of the reads is a mapped register's operation, and its encoding is the read at its offset. -/
theorem readRows_spec : ∀ r ∈ readRows, mappedOffset r.1 = true ∧ r.2.WellFormed ∧ encode r.2 = encodeRead r.1 := by
  decide

/-- No mapped offset lacks a row (10_state.md R42). -/
theorem decodeRead_eq_none : ∀ off : Byte, decodeRead off = none → mappedOffset off = false := by
  decide

/-- A request is a legal read, a legal CTRL write, or CSR.ILLEGAL, and in this last case it is not legal (R95). -/
theorem decode_csrRequest_cases (we : Bool) (off : Byte) (size : Nat) (v : U32) :
    (we = false ∧ size = 4 ∧ (off, decode (.csr (csrRequest we off size v))) ∈ readRows) ∨
      (we = true ∧ size = 4 ∧ off = 0#8 ∧ decode (.csr (csrRequest we off size v)) = .csrWriteCtrl v) ∨
      (legalRequest we off size = false ∧ decode (.csr (csrRequest we off size v)) = .csrIllegal we off size) := by
  rw [decode_csrRequest]
  by_cases hsize : size = 4
  · rw [if_pos hsize]
    cases we with
    | true =>
      by_cases hoff : off = 0#8
      · exact .inr (.inl ⟨rfl, hsize, hoff, by simp [hoff]⟩)
      · exact .inr (.inr ⟨by simp [legalRequest, hoff], by simp [hoff]⟩)
    | false =>
      cases hd : decodeRead off with
      | none => exact .inr (.inr ⟨by simp [legalRequest, decodeRead_eq_none off hd], rfl⟩)
      | some i =>
        obtain ⟨⟨o, _⟩, hfind, rfl⟩ := Option.map_eq_some_iff.mp hd
        obtain rfl : o = off := by simpa using List.find?_some hfind
        exact .inl ⟨rfl, hsize, List.mem_of_find?_eq_some hfind⟩
  · exact .inr (.inr ⟨by simp [legalRequest, hsize], if_neg hsize⟩)

theorem wellFormed_csrIllegal_iff (we : Bool) (off : Byte) (size : Nat) :
    (Instr.csrIllegal we off size).WellFormed ↔ legalRequest we off size = false := by
  simp [Instr.WellFormed, Instr.wellFormed]

theorem decode_csrRequest_wellFormed (we : Bool) (off : Byte) (size : Nat) (v : U32) :
    (decode (.csr (csrRequest we off size v))).WellFormed := by
  rcases decode_csrRequest_cases we off size v with ⟨-, -, hrow⟩ | ⟨-, -, -, h⟩ | ⟨hill, h⟩
  · exact (readRows_spec _ hrow).2.1
  · rw [h]
    rfl
  · rw [h]
    exact (wellFormed_csrIllegal_iff we off size).mpr hill

/-- A request is CSR.ILLEGAL exactly where it is not legal (R95, R233). -/
theorem decode_csrRequest_eq_illegal_iff (we : Bool) (off : Byte) (size : Nat) (v : U32) :
    decode (.csr (csrRequest we off size v)) = .csrIllegal we off size ↔ legalRequest we off size = false := by
  constructor
  · intro h
    have hwf := decode_csrRequest_wellFormed we off size v
    rw [h] at hwf
    exact (wellFormed_csrIllegal_iff we off size).mp hwf
  · intro hill
    rcases decode_csrRequest_cases we off size v with ⟨rfl, rfl, hrow⟩ | ⟨rfl, rfl, rfl, -⟩ | ⟨-, h⟩
    · have hmapped := (readRows_spec _ hrow).1
      simp [legalRequest, hmapped] at hill
    · simp [legalRequest] at hill
    · exact h

/-- A request is not legal by its size, its offset, or a write to another register than CTRL (R230, R233). -/
theorem legalRequest_eq_false_iff (we : Bool) (off : Byte) (size : Nat) :
    legalRequest we off size = false ↔
      size ≠ 4 ∨ off.toNat % 4 ≠ 0 ∨ 0x34 < off.toNat ∨ (we = true ∧ off ≠ 0x00) := by
  cases we with
  | true =>
    by_cases hoff : off = 0#8
    · subst hoff
      simp [legalRequest]
    · simp [legalRequest, hoff]
  | false =>
    simp only [legalRequest, mappedOffset, Bool.false_eq_true, if_false, Bool.and_eq_false_iff, beq_eq_false_iff_ne,
      decide_eq_false_iff_not, Nat.not_le, false_and, or_false]

/-! ### Decoding and encoding (R99, R100) -/

/-- Settles O1, format by format: the fields put together by `encode` are the ones `decode` takes apart. -/
theorem decodeOfEncodeIsIdentity : Obligations.DecodeOfEncodeIsIdentity := by
  unfold Obligations.DecodeOfEncodeIsIdentity
  intro i hwf
  cases i with
  | inByte b => exact decode_sym false b
  | inEnd | routeBlock | routeTransaction | routeConsensus => rfl
  | routeUnrecognized t =>
    have hge : 3 ≤ t.toNat := of_decide_eq_true hwf
    rcases decode_disc_cases t with ⟨rfl, -⟩ | ⟨rfl, -⟩ | ⟨rfl, -⟩ | ⟨-, h⟩
    · exact absurd hge (by decide)
    · exact absurd hge (by decide)
    · exact absurd hge (by decide)
    · exact h
  | csrReadCtrl | csrReadStatus | csrReadLenLo | csrReadLenHi | csrReadPcntLo | csrReadPcntHi | csrReadCrcRx
  | csrReadCrcCalc | csrReadMsgInfo | csrReadCntOk | csrReadCntIncomplete | csrReadCntChecksum
  | csrReadCntMalformed | csrReadCntOversize => rfl
  | csrWriteCtrl v => exact decode_csrRequest true 0 4 v
  | csrIllegal we off size =>
    exact (decode_csrRequest_eq_illegal_iff we off size 0).mpr
      ((wellFormed_csrIllegal_iff we off size).mp hwf)

theorem encode_decode_sym (e : Bool) (b : Byte) :
    encode (decode (.sym (BitVec.ofBool e ++ b))) = (Encoding.sym (BitVec.ofBool e ++ b)).canonical := by
  rw [decode_sym]
  show _ = if (BitVec.ofBool e ++ b).getLsbD 8 then _ else _
  rw [ofBool_append_getLsbD_8]
  cases e <;> rfl

theorem encode_decode_disc (t : Byte) : encode (decode (.disc t)) = .disc t := by
  rcases decode_disc_cases t with ⟨rfl, h⟩ | ⟨rfl, h⟩ | ⟨rfl, h⟩ | ⟨-, h⟩ <;> rw [h] <;> rfl

theorem encode_decode_csrRequest (we : Bool) (off : Byte) (size : Nat) (v : U32) :
    encode (decode (.csr (csrRequest we off size v))) = (Encoding.csr (csrRequest we off size v)).canonical := by
  rw [canonical_csrRequest]
  rcases decode_csrRequest_cases we off size v with ⟨rfl, rfl, hrow⟩ | ⟨rfl, rfl, rfl, h⟩ | ⟨hill, h⟩
  · exact (readRows_spec _ hrow).2.2
  · rw [h]
    rfl
  · rw [h, if_neg]
    · rfl
    · rintro ⟨rfl, rfl, rfl⟩
      exact absurd hill (by decide)

/-- Settles O2, format by format, each encoded thing written as its fields. -/
theorem encodeOfDecodeIsCanonical : Obligations.EncodeOfDecodeIsCanonical := by
  unfold Obligations.EncodeOfDecodeIsCanonical
  intro e
  cases e with
  | sym w =>
    rw [← ofBool_append_fields w]
    exact encode_decode_sym _ _
  | disc t => exact encode_decode_disc t
  | csr r =>
    rw [← csrRequest_fields r]
    exact encode_decode_csrRequest _ _ _ _

/-- Settles O5: CSR.ILLEGAL is what is not legal, and the access rule says what is legal. -/
theorem illegalRequestsAreThoseOfTheAccessRule : Obligations.IllegalRequestsAreThoseOfTheAccessRule := by
  unfold Obligations.IllegalRequestsAreThoseOfTheAccessRule
  intro we off size v
  exact (decode_csrRequest_eq_illegal_iff we off size v).trans (legalRequest_eq_false_iff we off size)

/-- Settles O3, format by format. -/
theorem everyEncodingSelectsAnOperation : Obligations.EveryEncodingSelectsAnOperation := by
  unfold Obligations.EveryEncodingSelectsAnOperation
  intro e
  cases e with
  | sym w =>
    rw [← ofBool_append_fields w, decode_sym]
    split <;> rfl
  | disc t =>
    rcases decode_disc_cases t with ⟨-, h⟩ | ⟨-, h⟩ | ⟨-, h⟩ | ⟨hge, h⟩ <;> rw [h]
    · rfl
    · rfl
    · rfl
    · exact decide_eq_true hge
  | csr r =>
    rw [← csrRequest_fields r]
    exact decode_csrRequest_wellFormed _ _ _ _

/-- Settles O4. -/
theorem wordsOfEachFormatDecode : Obligations.WordsOfEachFormatDecode := by
  unfold Obligations.WordsOfEachFormatDecode
  exact ⟨rfl, rfl, rfl, rfl, rfl, rfl, rfl⟩

end Sys2Proof
end

section
/-! The host's turn, EVAL of a good frame, and a trace line that waits for EVAL (30_encoding.md R93, R95, R103). -/

namespace Sys2Proof.Machine

/-- A request made while `rst` is 0 is taken and run (R230). -/
theorem hostTurn_of_request {s : State} {r : CsrRequest} {rs : List CsrRequest} (h : s.env.requests = r :: rs)
    (hrst : s.rst = false) : hostTurn s = exec (decode (.csr r)) (s.setRequests rs) := by
  unfold hostTurn
  rw [h]
  simp only [hrst, Bool.false_eq_true, if_false]

/-- EVAL of a verified payload that parses latches the message and runs the discriminant's operation (R189). -/
theorem evalStep_of_message {s : State} {t : Byte} {d : List Byte} (hp : s.phase = .eval)
    (hcrc : s.frame.crcCalc = s.frame.csumReg) (hfit : s.FitsCapacity)
    (hd : payloadDecode s.params s.payloadBytes = some (t, d)) :
    evalStep s = exec (decode (.disc t)) (s.latchMessage t d) := by
  unfold evalStep decodeAndRoute
  rw [if_pos hp, if_pos hcrc, s.fitsCapacity_iff.mp hfit, if_neg Bool.false_ne_true, hd]

/-- EVAL leaves phase EVAL and does not touch the agents (R152, R189). -/
theorem evalStep_leaves_eval {s t : State} (hp : s.phase = .eval) (h : evalStep s = .next t) :
    t.phase ≠ .eval ∧ t.env = s.env := by
  rcases evalStep_next h with ⟨hn, -⟩ | ⟨-, -, rfl⟩ | ⟨-, -, -, ⟨-, rfl⟩ | ⟨_, _, -, rfl⟩⟩
  · exact absurd hp hn
  all_goals exact ⟨by simp, rfl⟩

/-- With no turn named a step is EVAL where it is enabled (R306). -/
theorem step_of_no_turns {s : State} (h : s.env.turns = []) : step s = evalStep s := by
  unfold step
  rw [h]
  rfl

theorem settle_of_no_turns {s : State} (h : s.env.turns = []) : settle s = evalStep s := by
  have hs : s.setTurns [] = s := by rw [State.setTurns, ← h]
  unfold settle
  rw [hs, step_of_no_turns h]

/-- A trace line sees the state only once EVAL was taken where it is enabled. -/
theorem TraceOp.run_congr (op : TraceOp) {s t : State} (h : settle s = settle t) : op.run s = op.run t := by
  unfold TraceOp.run
  rw [h]

/-- Settles O7. -/
theorem hostRequestRunsItsOperation : Obligations.HostRequestRunsItsOperation := by
  unfold Obligations.HostRequestRunsItsOperation
  intro s ts r rs hturn hreq hrst
  rw [step_of_turns hturn]
  exact hostTurn_of_request (s := s.setTurns ts) hreq hrst

/-- Settles O8. -/
theorem decodedDiscriminantRunsItsRoute : Obligations.DecodedDiscriminantRunsItsRoute := by
  unfold Obligations.DecodedDiscriminantRunsItsRoute
  rintro s ts _ t d hturn hp hcrc hfit rfl hd
  rw [step_of_turns hturn]
  exact evalStep_of_message (s := s.setTurns ts) hp hcrc hfit hd

/-- Settles O60: EVAL before the line gives `t` from `s`, and leaves `t` as it is. -/
theorem traceLineRunsAfterEval : Obligations.TraceLineRunsAfterEval := by
  unfold Obligations.TraceLineRunsAfterEval
  intro op s t hturn hp h
  rw [step_of_no_turns hturn] at h
  obtain ⟨hpt, henv⟩ := evalStep_leaves_eval hp h
  have htt : t.env.turns = [] := henv ▸ hturn
  refine op.run_congr ?_
  calc settle s
      = .next t := (settle_of_no_turns hturn).trans h
    _ = evalStep t := (if_neg hpt).symm
    _ = settle t := (settle_of_no_turns htt).symm

end Sys2Proof.Machine
end

section
/-! The reader's operations IN.BYTE and IN.END, phase by phase (40_frame_reader.md R120 to R131). -/

namespace Sys2Proof.Machine

/-! ### IN.BYTE and IN.END in each phase -/

theorem exec_inByte (b : Byte) (s : State) : exec (.inByte b) s = execInByte b s := rfl

/-- Where `in_ready` is 0 a byte is held (R131). -/
theorem execInByte_of_not_ready {s : State} (b : Byte) (hr : s.inReady = false) : execInByte b s = .next s := by
  unfold execInByte
  rw [hr, if_neg Bool.false_ne_true]

/-- Where `in_ready` is 0 the end of the stream is held (R131). -/
theorem execInEnd_of_not_ready {s : State} (hr : s.inReady = false) : execInEnd s = .next s := by
  unfold execInEnd
  rw [hr, if_neg Bool.false_ne_true]

theorem execInByte_len {s : State} (b : Byte) (hr : s.inReady = true) (hp : s.phase = .len) :
    execInByte b s = .next (byteLen b s) := by
  unfold execInByte
  rw [if_pos hr, hp]

theorem execInByte_csum {s : State} (b : Byte) (hr : s.inReady = true) (hp : s.phase = .csum) :
    execInByte b s = .next (byteCsum b s) := by
  unfold execInByte
  rw [if_pos hr, hp]

/-- Moving to phase `p` or staying in phase `q`. -/
theorem State.ite_setPhase {s : State} {q : Phase} (hq : s.phase = q) (c : Prop) [Decidable c] (p : Phase) :
    (if c then s.setPhase p else s) = s.setPhase (if c then p else q) := by
  subst hq
  split <;> rfl

/-- A length byte before the eighth (R121). -/
theorem byteLen_of_not_last {b : Byte} {s : State} (h : s.frame.lenCnt + 1#4 ≠ 8#4) :
    byteLen b s = s.acceptLen b :=
  if_neg h

/-- The eighth length byte (R122). -/
theorem byteLen_of_last {b : Byte} {s : State} (h : s.frame.lenCnt + 1#4 = 8#4) :
    byteLen b s = (s.acceptLen b).lengthComplete :=
  if_pos h

/-- A length that fits starts the payload, or the checksum where the payload is empty (R122, R123). -/
theorem State.lengthComplete_of_fits {s : State} (h : s.FitsCapacity) :
    s.lengthComplete = s.setPhase (if s.frame.lenReg = 0#64 then .csum else .payload) := by
  rw [State.lengthComplete_eq, s.fitsCapacity_iff.mp h, if_neg Bool.false_ne_true]

/-- A payload byte for an index PBUF has (R124, R125). -/
theorem bytePayload_of_index {b : Byte} {s : State} (hp : s.phase = .payload)
    (hi : s.pbufIndex s.frame.payCnt.toNat = true) :
    bytePayload b s = .next
      ((s.acceptPayload b).setPhase (if s.frame.payCnt + 1#64 = s.frame.lenReg then .csum else .payload)) := by
  unfold bytePayload
  rw [if_pos hi]
  exact congrArg _ (State.ite_setPhase (s := s.acceptPayload b) hp _ _)

/-- A checksum byte in phase CSUM (R126). -/
theorem byteCsum_of_csum {b : Byte} {s : State} (hp : s.phase = .csum) :
    byteCsum b s = (s.acceptCsum b).setPhase (if s.frame.csumCnt + 1#3 = 4#3 then .eval else .csum) :=
  State.ite_setPhase (s := s.acceptCsum b) hp _ _

/-- `in_ready` is 0 under reset, with EN = 0 and in the phases that take no input (10_state.md R37). -/
theorem State.inReady_eq_false {s : State}
    (h : s.rst = true ∨ s.ctrlEn = false ∨ s.phase = .eval ∨ s.phase = .deliver ∨ s.phase = .error) :
    s.inReady = false := by
  rcases h with h | h | h | h | h <;> simp [State.inReady, Phase.acceptsInput, h]

/-- A symbol offered where `in_ready` is 0 stays with the source (R131). -/
theorem sourceTurn_of_not_ready {s : State} (hr : s.inReady = false) : sourceTurn s = .next s := by
  unfold sourceTurn
  cases s.env.stream with
  | nil => rfl
  | cons w ws =>
    simp only [hr, Bool.false_eq_true, if_false, exec_sym, execInEnd_of_not_ready hr, execInByte_of_not_ready _ hr,
      ite_self]

/-! ### The statements about one symbol -/

/-- Settles O17. -/
theorem heldByteChangesNothing : Obligations.HeldByteChangesNothing := by
  unfold Obligations.HeldByteChangesNothing
  intro s b hr
  exact execInByte_of_not_ready b hr

/-- Settles O9: each of the five conditions makes `in_ready` 0. -/
theorem heldSymbolStaysOffered : Obligations.HeldSymbolStaysOffered := by
  unfold Obligations.HeldSymbolStaysOffered
  intro s ts hturn hwhy
  rw [step_of_turns hturn]
  exact sourceTurn_of_not_ready (s := s.setTurns ts) (State.inReady_eq_false hwhy)

/-- Settles O11. -/
theorem lengthByteIsShiftedIn : Obligations.LengthByteIsShiftedIn := by
  unfold Obligations.LengthByteIsShiftedIn
  intro s b hr hp hcnt
  rw [exec_inByte, execInByte_len b hr hp, byteLen_of_not_last hcnt]
  rfl

/-- Settles O12: the new length is held against the capacity, and one that fits against 0. -/
theorem eighthLengthByteCompletesLength : Obligations.EighthLengthByteCompletesLength := by
  unfold Obligations.EighthLengthByteCompletesLength
  intro s b f hr hp hcnt hf
  have hframe : (s.acceptLen b).frame = f := by
    rw [State.acceptLen_frame, hcnt, hf]
    rfl
  have hstate : s.acceptLen b = { s with frame := f } := hframe ▸ rfl
  rw [exec_inByte, execInByte_len b hr hp, byteLen_of_last hcnt, hstate]
  refine ⟨fun hov => ?_, fun hfit => ?_⟩
  · rw [State.lengthComplete_eq, if_pos ((State.overCapacity_iff _).mpr hov)]
    rfl
  · exact congrArg _ (State.lengthComplete_of_fits (s := { s with frame := f }) hfit)

/-- Settles O13. -/
theorem payloadByteIsStored : Obligations.PayloadByteIsStored := by
  unfold Obligations.PayloadByteIsStored
  intro s b hr hp hidx
  refine ⟨s.pbuf.write s.frame.payCnt.toNat b, ?_, Memory.read_write_same _ _ _,
    fun a ha => Memory.read_write_of_ne _ b ha⟩
  rw [exec_inByte, execInByte_payload b hr hp, bytePayload_of_index hp ((s.pbufIndex_iff _).mpr hidx)]
  rfl

/-- Settles O15. -/
theorem checksumByteIsShiftedIn : Obligations.ChecksumByteIsShiftedIn := by
  unfold Obligations.ChecksumByteIsShiftedIn
  intro s b hr hp
  rw [exec_inByte, execInByte_csum b hr hp, byteCsum_of_csum hp]
  rfl

/-- IN.END in an accepting phase: the segment and the boundary bit are those of the phase (R127 to R129). -/
theorem execInEnd_of_ready {s : State} (hr : s.inReady = true) :
    execInEnd s = .next (s.raise .incompleteFrame
      (if s.phase = .len then .length else if s.phase = .payload then .payload else .checksum)
      (decide (s.phase = .len ∧ s.frame.lenCnt = 0#4))) := by
  obtain ⟨-, -, hp | hp | hp⟩ := s.inReady_iff.mp hr <;> unfold execInEnd <;> rw [if_pos hr] <;> simp [hp]
  rfl

/-- Settles O16. -/
theorem streamEndRaisesIncompleteFrame : Obligations.StreamEndRaisesIncompleteFrame := by
  unfold Obligations.StreamEndRaisesIncompleteFrame
  intro s
  exact ⟨fun hr => execInEnd_of_ready hr, fun hr => execInEnd_of_not_ready hr⟩

end Sys2Proof.Machine
end

section
/-! What a step may do to the messages handed over (43_router.md R214, R216). -/

namespace Sys2Proof.Machine

/-- The agents' side after a step is what the turn left of it, but for the message that DELIVER hands over. -/
theorem StepEffect.env_cases {s t : State} {e : Env} (h : StepEffect s e t) :
    t.env = e ∨
      ((∃ ts, s.env.turns = .sink :: ts) ∧ s.phase = .deliver ∧ s.sinkReadyOn s.msgRoute = true ∧
        t.env = (s.setEnv e).emit.env) := by
  cases h with
  | idle | respond | streamEnd | mismatch | malformed | message | reset => exact .inl rfl
  | lenByte b =>
    obtain ⟨_, _, _, h⟩ := byteLen_eq b (s.setEnv e)
    exact .inl (h ▸ rfl)
  | payloadByte b _ _ _ ht =>
    obtain ⟨_, rfl⟩ := bytePayload_eq ht
    exact .inl rfl
  | csumByte b =>
    obtain ⟨_, h⟩ := byteCsum_eq b (s.setEnv e)
    exact .inl (h ▸ rfl)
  | deliver ts hturn hp hr => exact .inr ⟨⟨ts, hturn⟩, hp, hr, rfl⟩
  | writeCtrl r =>
    obtain ⟨_, _, _, h | h⟩ := (s.setEnv e).writeCtrl_cases r.wdata <;> exact .inl (h ▸ rfl)

/-- Settles O32: a turn takes nothing from the messages received, and only DELIVER adds one. -/
theorem onlyDeliverEmits : Obligations.OnlyDeliverEmits := by
  unfold Obligations.OnlyDeliverEmits
  intro s t h
  obtain ⟨e, ⟨hrec, -⟩, heff⟩ := step_effect h
  rcases heff.env_cases with henv | ⟨hturn, hp, hready, henv⟩
  · exact .inl (by rw [henv, hrec])
  · exact .inr ⟨hp, hturn, hready, by rw [henv, State.emit_env, hrec]⟩

end Sys2Proof.Machine
end

section
/-! The reader over a frame (40_frame_reader.md R134): the state after its first `k` bytes, as a function of the frame
and `k`, and one source turn as one byte more. -/

namespace Sys2Proof.Machine

/-! ### Registers from their big-endian bytes, and runs of bytes written to PBUF -/

/-- Bytes shifted into `len_reg` push out as many at the top. -/
theorem be64_foldl_shiftInLen (bs : List Byte) (v : U64) :
    be64 (bs.foldl shiftInLen v) = (be64 v ++ bs).drop bs.length := by
  induction bs generalizing v with
  | nil => simp
  | cons b bs ih =>
    rw [List.foldl_cons, ih, be64_shiftInLen, List.append_assoc, List.singleton_append,
      ← List.drop_append_of_le_length (by simp), List.drop_drop, List.length_cons, Nat.add_comm]

/-- Bytes shifted into `csum_reg` push out as many at the top. -/
theorem be32_foldl_shiftInCsum (bs : List Byte) (v : U32) :
    be32 (bs.foldl shiftInCsum v) = (be32 v ++ bs).drop bs.length := by
  induction bs generalizing v with
  | nil => simp
  | cons b bs ih =>
    rw [List.foldl_cons, ih, be32_shiftInCsum, List.append_assoc, List.singleton_append,
      ← List.drop_append_of_le_length (by simp), List.drop_drop, List.length_cons, Nat.add_comm]

/-- The eight bytes of a length, shifted in, give it back (R98). -/
theorem foldl_shiftInLen_be64 (u v : U64) : (be64 v).foldl shiftInLen u = v :=
  be64_injective ((be64_foldl_shiftInLen _ _).trans (List.drop_left' (be64_length u)))

/-- The four bytes of a checksum, shifted in, give it back (R98). -/
theorem foldl_shiftInCsum_be32 (u v : U32) : (be32 v).foldl shiftInCsum u = v :=
  be32_injective ((be32_foldl_shiftInCsum _ _).trans (List.drop_left' (be32_length u)))

/-- `m` with the bytes `bs` written from index 0 on, in order. -/
def Memory.writeBytes (m : Memory) (bs : List Byte) : Memory :=
  bs.zipIdx.foldl (fun m x => m.write x.2 x.1) m

theorem Memory.writeBytes_concat (m : Memory) (bs : List Byte) (b : Byte) :
    m.writeBytes (bs ++ [b]) = (m.writeBytes bs).write bs.length b := by
  simp [Memory.writeBytes, List.zipIdx_append]

theorem Memory.readBytes_writeBytes (m : Memory) (bs : List Byte) :
    (m.writeBytes bs).readBytes 0 bs.length = some bs := by
  induction bs using List.reverseRecOn with
  | nil => rfl
  | append_singleton bs b ih =>
    rw [Memory.writeBytes_concat, List.length_append]
    exact Memory.readBytes_write_append b ih

theorem Memory.read_writeBytes_of_le (m : Memory) (bs : List Byte) {a : Nat} (h : bs.length ≤ a) :
    (m.writeBytes bs).read a = m.read a := by
  induction bs using List.reverseRecOn with
  | nil => rfl
  | append_singleton bs b ih =>
    rw [List.length_append, List.length_singleton] at h
    rw [Memory.writeBytes_concat, Memory.read_write_of_ne _ b (by omega), ih (by omega)]

/-! ### The state after a part of a frame -/

/-- The registers once the length bytes `l`, the payload bytes `q` and the checksum bytes `r` were accepted. -/
def FrameRegs.ofParts (l q r : List Byte) : FrameRegs where
  lenCnt := BitVec.ofNat 4 l.length
  lenReg := l.foldl shiftInLen 0
  payCnt := BitVec.ofNat 64 q.length
  csumCnt := BitVec.ofNat 3 r.length
  csumReg := r.foldl shiftInCsum 0
  crcReg := crcRun 0xFFFFFFFF#32 (l ++ q)

/-- `s` in phase `ph`, once these bytes were accepted. -/
def State.readParts (s : State) (ph : Phase) (l q r : List Byte) : State :=
  { s with phase := ph, frame := FrameRegs.ofParts l q r, pbuf := s.pbuf.writeBytes q }

/-- The frame with payload `p` and checksum `c` (R91). -/
def frameOf (p : List Byte) (c : U32) : List Byte :=
  be64 (BitVec.ofNat 64 p.length) ++ p ++ be32 c

/-- The phase after `k` bytes of a frame with `n` payload bytes (R121 to R126). -/
def framePhase (n k : Nat) : Phase :=
  if k < 8 then .len else if k < 8 + n then .payload else if k < 12 + n then .csum else .eval

theorem framePhase_len {n k : Nat} (h : k < 8) : framePhase n k = .len := if_pos h

theorem framePhase_payload {n k : Nat} (h : 8 ≤ k) (h' : k < 8 + n) : framePhase n k = .payload :=
  (if_neg (Nat.not_lt.mpr h)).trans (if_pos h')

theorem framePhase_csum {n k : Nat} (h : 8 + n ≤ k) (h' : k < 12 + n) : framePhase n k = .csum := by
  unfold framePhase
  rw [if_neg (by omega), if_neg (by omega), if_pos h']

theorem framePhase_eval {n k : Nat} (h : 12 + n ≤ k) : framePhase n k = .eval := by
  unfold framePhase
  rw [if_neg (by omega), if_neg (by omega), if_neg (by omega)]

/-- `s` once the first `k` bytes of `frameOf p c` were accepted. -/
def State.readTo (s : State) (p : List Byte) (c : U32) (k : Nat) : State :=
  s.readParts (framePhase p.length k) ((be64 (BitVec.ofNat 64 p.length)).take k) (p.take (k - 8))
    ((be32 c).take (k - 8 - p.length))

/-- The block takes input, a new frame of `n` payload bytes fits PBUF, and `n` is a length (R37, R39, R122). -/
structure State.CanRead (s : State) (n : Nat) : Prop where
  rst : s.rst = false
  ctrlEn : s.ctrlEn = true
  lt : n < 2 ^ 64
  fits : ∀ m, s.params.capacity = some m → n ≤ m

theorem State.CanRead.setEnv {s : State} {n : Nat} (h : s.CanRead n) (e : Env) : (s.setEnv e).CanRead n :=
  ⟨h.rst, h.ctrlEn, h.lt, h.fits⟩

section
variable {s : State} {p : List Byte} {c : U32} {k : Nat} {b : Byte}

@[simp] theorem frameOf_length (p : List Byte) (c : U32) : (frameOf p c).length = 12 + p.length := by
  simp only [frameOf, List.length_append, be64_length, be32_length]
  omega

@[simp] theorem State.readTo_phase : (s.readTo p c k).phase = framePhase p.length k := rfl

theorem State.readTo_zero (hp : s.phase = .len) (hf : s.frame = FrameRegs.init) : s.readTo p c 0 = s := by
  have hregs : FrameRegs.ofParts [] [] [] = s.frame := hf ▸ rfl
  have hphase : framePhase p.length 0 = s.phase := hp ▸ rfl
  simp only [State.readTo, State.readParts, List.take_zero, Nat.zero_sub, hregs, hphase]
  rfl

/-- Before the frame is complete the reader takes input. -/
theorem State.readTo_inReady (h : s.CanRead p.length) (hk : k < 12 + p.length) :
    (s.readTo p c k).inReady = true := by
  refine (State.inReady_iff _).mpr ⟨h.rst, h.ctrlEn, ?_⟩
  simp only [State.readTo_phase, framePhase, if_pos hk]
  split
  · exact .inl rfl
  · split
    · exact .inr (.inl rfl)
    · exact .inr (.inr rfl)

/-! ### One byte more -/

theorem State.acceptLen_readParts (s : State) (ph ph' : Phase) (l r : List Byte) (b : Byte) :
    ((s.readParts ph l [] r).acceptLen b).setPhase ph' = s.readParts ph' (l ++ [b]) [] r := by
  simp [State.readParts, State.acceptLen, State.setPhase, FrameRegs.ofParts, crcRun_append, BitVec.ofNat_add]

theorem State.acceptPayload_readParts (s : State) (ph ph' : Phase) (l r : List Byte) (b : Byte) {q : List Byte}
    (hq : q.length < 2 ^ 64) :
    ((s.readParts ph l q r).acceptPayload b).setPhase ph' = s.readParts ph' l (q ++ [b]) r := by
  have hidx : q.length % 18446744073709551616 = q.length := Nat.mod_eq_of_lt hq
  simp [State.readParts, State.acceptPayload, State.setPhase, FrameRegs.ofParts, crcRun_append, BitVec.ofNat_add,
    Memory.writeBytes_concat, hidx]

theorem State.acceptCsum_readParts (s : State) (ph ph' : Phase) (l q r : List Byte) (b : Byte) :
    ((s.readParts ph l q r).acceptCsum b).setPhase ph' = s.readParts ph' l q (r ++ [b]) := by
  simp [State.readParts, State.acceptCsum, State.setPhase, FrameRegs.ofParts, BitVec.ofNat_add]

/-- The byte after the first `k` is one of the length, of the payload or of the checksum (R91). -/
theorem frameOf_getElem?_cases (hb : (frameOf p c)[k]? = some b) :
    (k < 8 ∧ (be64 (BitVec.ofNat 64 p.length))[k]? = some b) ∨
      (8 ≤ k ∧ k < 8 + p.length ∧ p[k - 8]? = some b) ∨
      (8 + p.length ≤ k ∧ k < 12 + p.length ∧ (be32 c)[k - 8 - p.length]? = some b) := by
  obtain ⟨hk, -⟩ := List.getElem?_eq_some_iff.mp hb
  rw [frameOf_length] at hk
  unfold frameOf at hb
  rw [List.append_assoc, List.getElem?_append] at hb
  split at hb
  · rename_i h8
    exact .inl ⟨h8, hb⟩
  · rename_i h8
    rw [be64_length] at h8 hb
    rw [List.getElem?_append] at hb
    split at hb
    · exact .inr (.inl ⟨by omega, by omega, hb⟩)
    · exact .inr (.inr ⟨by omega, by omega, hb⟩)

theorem State.acceptLen_readTo (hk : k < 8) (hb : (be64 (BitVec.ofNat 64 p.length))[k]? = some b) :
    ((s.readTo p c k).acceptLen b).setPhase (framePhase p.length (k + 1)) = s.readTo p c (k + 1) := by
  have h0 : k - 8 = 0 := by omega
  have h1 : k + 1 - 8 = 0 := by omega
  simp only [State.readTo, h0, h1, List.take_zero, List.take_add_one, hb]
  exact State.acceptLen_readParts _ _ _ _ _ _

theorem State.acceptPayload_readTo (hn : p.length < 2 ^ 64) (hk : 8 ≤ k) (hk' : k < 8 + p.length)
    (hb : p[k - 8]? = some b) :
    ((s.readTo p c k).acceptPayload b).setPhase (framePhase p.length (k + 1)) = s.readTo p c (k + 1) := by
  have hl : (be64 (BitVec.ofNat 64 p.length)).take (k + 1) = (be64 (BitVec.ofNat 64 p.length)).take k :=
    List.take_eq_take_iff.mpr (by rw [be64_length]; omega)
  have hr : (be32 c).take (k + 1 - 8 - p.length) = (be32 c).take (k - 8 - p.length) :=
    List.take_eq_take_iff.mpr (by rw [be32_length]; omega)
  have hq : (p.take (k - 8)).length < 2 ^ 64 := by rw [List.length_take]; omega
  have hsub : k + 1 - 8 = k - 8 + 1 := by omega
  simp only [State.readTo, hl, hr]
  simp only [hsub, List.take_add_one, hb]
  exact State.acceptPayload_readParts _ _ _ _ _ _ hq

theorem State.acceptCsum_readTo (hk : 8 + p.length ≤ k) (hb : (be32 c)[k - 8 - p.length]? = some b) :
    ((s.readTo p c k).acceptCsum b).setPhase (framePhase p.length (k + 1)) = s.readTo p c (k + 1) := by
  have hl : (be64 (BitVec.ofNat 64 p.length)).take (k + 1) = (be64 (BitVec.ofNat 64 p.length)).take k :=
    List.take_eq_take_iff.mpr (by rw [be64_length]; omega)
  have hq : p.take (k + 1 - 8) = p.take (k - 8) := List.take_eq_take_iff.mpr (by omega)
  have hsub : k + 1 - 8 - p.length = k - 8 - p.length + 1 := by omega
  simp only [State.readTo, hl, hq, hsub, List.take_add_one, hb]
  exact State.acceptCsum_readParts _ _ _ _ _ _ _

/-! ### The registers the phase depends on -/

theorem State.readTo_lenCnt : (s.readTo p c k).frame.lenCnt = BitVec.ofNat 4 (min k 8) := by
  simp [State.readTo, State.readParts, FrameRegs.ofParts]

theorem State.readTo_payCnt : (s.readTo p c k).frame.payCnt = BitVec.ofNat 64 (min (k - 8) p.length) := by
  simp [State.readTo, State.readParts, FrameRegs.ofParts]

theorem State.readTo_csumCnt : (s.readTo p c k).frame.csumCnt = BitVec.ofNat 3 (min (k - 8 - p.length) 4) := by
  simp [State.readTo, State.readParts, FrameRegs.ofParts]

/-- Once its eight bytes are in, `len_reg` is the length. -/
theorem State.readTo_lenReg (hk : 8 ≤ k) : (s.readTo p c k).frame.lenReg = BitVec.ofNat 64 p.length := by
  have hall : (be64 (BitVec.ofNat 64 p.length)).take k = be64 (BitVec.ofNat 64 p.length) :=
    List.take_of_length_le (by simpa using hk)
  show List.foldl shiftInLen 0 _ = _
  rw [hall, foldl_shiftInLen_be64]

/-- The frame the reader is at fits PBUF, once its length is known (R122). -/
theorem State.readTo_fits (h : s.CanRead p.length) (hk : 8 ≤ k) : (s.readTo p c k).FitsCapacity := by
  intro m hm
  rw [State.readTo_lenReg hk, BitVec.toNat_ofNat, Nat.mod_eq_of_lt h.lt]
  exact h.fits m hm

/-! ### IN.BYTE with the next byte of the frame -/

theorem execInByte_readTo_len (h : s.CanRead p.length) (hk : k < 8)
    (hb : (be64 (BitVec.ofNat 64 p.length))[k]? = some b) :
    execInByte b (s.readTo p c k) = .next (s.readTo p c (k + 1)) := by
  have hnext := State.acceptLen_readTo (s := s) (c := c) hk hb
  have hcnt : (s.readTo p c k).frame.lenCnt = BitVec.ofNat 4 k := by
    rw [State.readTo_lenCnt, Nat.min_eq_left hk.le]
  rw [execInByte_len b (State.readTo_inReady h (by omega)) (framePhase_len hk)]
  by_cases h7 : k = 7
  · subst h7
    have hfit : ((s.readTo p c 7).acceptLen b).FitsCapacity := by
      have hfit8 := State.readTo_fits (c := c) h (Nat.le_refl 8)
      rwa [← hnext] at hfit8
    have hlen : ((s.readTo p c 7).acceptLen b).frame.lenReg = BitVec.ofNat 64 p.length :=
      (congrArg (fun t : State => t.frame.lenReg) hnext).trans (State.readTo_lenReg (Nat.le_refl 8))
    have hphase : (if BitVec.ofNat 64 p.length = 0#64 then .csum else .payload) = framePhase p.length 8 := by
      have hn := h.lt
      split
      · exact (framePhase_csum (by bv_omega) (by omega)).symm
      · exact (framePhase_payload (Nat.le_refl 8) (by bv_omega)).symm
    rw [byteLen_of_last (by rw [hcnt]; rfl), State.lengthComplete_of_fits hfit, hlen, hphase, hnext]
  · have hphase : ((s.readTo p c k).acceptLen b).phase = framePhase p.length (k + 1) :=
      (framePhase_len hk).trans (framePhase_len (by omega)).symm
    rw [byteLen_of_not_last (by rw [hcnt]; bv_omega), ← hnext, ← hphase]
    rfl

theorem execInByte_readTo_payload (h : s.CanRead p.length) (hk : 8 ≤ k) (hk' : k < 8 + p.length)
    (hb : p[k - 8]? = some b) : execInByte b (s.readTo p c k) = .next (s.readTo p c (k + 1)) := by
  have hn := h.lt
  have hp := framePhase_payload hk hk'
  have hcnt : (s.readTo p c k).frame.payCnt = BitVec.ofNat 64 (k - 8) := by
    rw [State.readTo_payCnt, Nat.min_eq_left (by omega)]
  have hidx : (s.readTo p c k).pbufIndex (s.readTo p c k).frame.payCnt.toNat = true :=
    (State.pbufIndex_iff _ _).mpr fun m hm => by
      have := h.fits m hm
      rw [hcnt, BitVec.toNat_ofNat]
      omega
  have hphase : (if BitVec.ofNat 64 (k - 8) + 1#64 = BitVec.ofNat 64 p.length then .csum else .payload) =
      framePhase p.length (k + 1) := by
    split
    · exact (framePhase_csum (by bv_omega) (by omega)).symm
    · exact (framePhase_payload (by omega) (by bv_omega)).symm
  rw [execInByte_payload b (State.readTo_inReady h (by omega)) hp, bytePayload_of_index hp hidx, hcnt,
    State.readTo_lenReg hk, hphase, State.acceptPayload_readTo hn hk hk' hb]

theorem execInByte_readTo_csum (h : s.CanRead p.length) (hk : 8 + p.length ≤ k) (hk' : k < 12 + p.length)
    (hb : (be32 c)[k - 8 - p.length]? = some b) :
    execInByte b (s.readTo p c k) = .next (s.readTo p c (k + 1)) := by
  have hp := framePhase_csum hk hk'
  have hcnt : (s.readTo p c k).frame.csumCnt = BitVec.ofNat 3 (k - 8 - p.length) := by
    rw [State.readTo_csumCnt, Nat.min_eq_left (by omega)]
  have hphase : (if BitVec.ofNat 3 (k - 8 - p.length) + 1#3 = 4#3 then .eval else .csum) =
      framePhase p.length (k + 1) := by
    split
    · exact (framePhase_eval (by bv_omega)).symm
    · exact (framePhase_csum (by omega) (by bv_omega)).symm
  rw [execInByte_csum b (State.readTo_inReady h hk') hp, byteCsum_of_csum hp, hcnt, hphase,
    State.acceptCsum_readTo hk hb]

/-- The next byte of the frame takes the reader one byte further. -/
theorem execInByte_readTo (h : s.CanRead p.length) (hb : (frameOf p c)[k]? = some b) :
    execInByte b (s.readTo p c k) = .next (s.readTo p c (k + 1)) := by
  rcases frameOf_getElem?_cases hb with ⟨hk, hb⟩ | ⟨hk, hk', hb⟩ | ⟨hk, hk', hb⟩
  · exact execInByte_readTo_len h hk hb
  · exact execInByte_readTo_payload h hk hk' hb
  · exact execInByte_readTo_csum h hk hk' hb

/-- What the agents hold does not matter to the reader. -/
theorem execInByte_readTo_setEnv (h : s.CanRead p.length) (hb : (frameOf p c)[k]? = some b) (e : Env) :
    execInByte b ((s.readTo p c k).setEnv e) = .next ((s.readTo p c (k + 1)).setEnv e) := by
  have hcomm (j : Nat) : (s.readTo p c j).setEnv e = (s.setEnv e).readTo p c j := rfl
  rw [hcomm, hcomm, execInByte_readTo (h.setEnv e) hb]

/-! ### Source turns over a part of the frame -/

/-- A byte as the source offers it (R92). -/
abbrev symOf (b : Byte) : BitVec 9 := 0#1 ++ b

theorem exec_symOf (b : Byte) (s : State) : exec (decode (.sym (symOf b))) s = execInByte b s :=
  congrArg (exec · s) (decode_sym false b)

theorem step_source {t : State} {ts : List Turn} {w : BitVec 9} {ws : List (BitVec 9)} (hr : t.inReady = true)
    (hturn : t.env.turns = .source :: ts) (hstream : t.env.stream = w :: ws) :
    step t = exec (decode (.sym w)) (t.setEnv { t.env with turns := ts, stream := ws }) :=
  offeredSymbolRunsItsOperation t ts w ws hturn hstream hr

/-- The end of the stream, offered where input is taken (R127). -/
theorem step_streamEnd {t : State} {ts : List Turn} {ws : List (BitVec 9)} (hr : t.inReady = true)
    (hturn : t.env.turns = .source :: ts) (hstream : t.env.stream = 0x100 :: ws) :
    step t = .next ((t.setEnv { t.env with turns := ts, stream := ws }).raise .incompleteFrame
      (if t.phase = .len then .length else if t.phase = .payload then .payload else .checksum)
      (decide (t.phase = .len ∧ t.frame.lenCnt = 0#4))) :=
  (step_source hr hturn hstream).trans (execInEnd_of_ready hr)

theorem runSteps_of_step {t u : State} (n : Nat) (h : step t = .next u) : runSteps (n + 1) t = runSteps n u := by
  rw [runSteps, h]

theorem runSteps_add {t u : State} {m : Nat} (n : Nat) (h : runSteps m t = .next u) :
    runSteps (m + n) t = runSteps n u := by
  induction m generalizing t with
  | zero =>
    injection h with h
    rw [h, Nat.zero_add]
  | succ m ih =>
    rw [Nat.add_right_comm]
    rw [runSteps] at h ⊢
    cases hstep : step t with
    | next t' => simp only [hstep] at h ⊢; exact ih h
    | fault | refused => simp [hstep] at h

/-- Source turns over the next bytes `bs` of the frame take the reader that much further. -/
theorem runSteps_readTo (h : s.CanRead p.length) {bs : List Byte} {ws : List (BitVec 9)} {ts : List Turn} {e : Env}
    (hbs : bs <+: (frameOf p c).drop k) (hstream : e.stream = bs.map symOf ++ ws)
    (hturns : e.turns = List.replicate bs.length .source ++ ts) :
    runSteps bs.length ((s.readTo p c k).setEnv e) =
      .next ((s.readTo p c (k + bs.length)).setEnv { e with stream := ws, turns := ts }) := by
  induction bs generalizing k e with
  | nil =>
    obtain rfl : e.stream = ws := hstream
    obtain rfl : e.turns = ts := hturns
    rfl
  | cons b bs ih =>
    obtain ⟨r, hr⟩ := hbs
    have hb : (frameOf p c)[k]? = some b := by
      rw [← List.head?_drop, ← hr]
      rfl
    have hrest : bs <+: (frameOf p c).drop (k + 1) := ⟨r, by rw [← List.tail_drop, ← hr]; rfl⟩
    have hk : k < 12 + p.length := by
      obtain ⟨hk, -⟩ := List.getElem?_eq_some_iff.mp hb
      rwa [frameOf_length] at hk
    have hstep : step ((s.readTo p c k).setEnv e) = .next ((s.readTo p c (k + 1)).setEnv
        { e with stream := bs.map symOf ++ ws, turns := List.replicate bs.length .source ++ ts }) := by
      have hready := State.readTo_inReady (c := c) h hk
      rw [step_source (t := (s.readTo p c k).setEnv e) hready hturns hstream, exec_symOf]
      exact execInByte_readTo_setEnv h hb _
    rw [List.length_cons, runSteps_of_step _ hstep, ih hrest rfl rfl, Nat.add_right_comm]
    rfl

/-- A fresh frame's first bytes. -/
theorem runSteps_of_fresh (h : s.CanRead p.length) (hp : s.phase = .len) (hf : s.frame = FrameRegs.init)
    {bs : List Byte} {ws : List (BitVec 9)} {ts : List Turn} (hbs : bs <+: frameOf p c)
    (hstream : s.env.stream = bs.map symOf ++ ws) (hturns : s.env.turns = List.replicate bs.length .source ++ ts) :
    runSteps bs.length s =
      .next ((s.readTo p c bs.length).setEnv { s.env with stream := ws, turns := ts }) := by
  have hrun := runSteps_readTo (k := 0) h hbs hstream hturns
  rwa [State.readTo_zero hp hf, Nat.zero_add] at hrun

/-- The whole frame (R134). -/
theorem State.readTo_end : s.readTo p c (12 + p.length) = { s with
    phase := .eval
    frame := ⟨8, BitVec.ofNat 64 p.length, BitVec.ofNat 64 p.length, 4, c,
      crcRun 0xFFFFFFFF#32 (be64 (BitVec.ofNat 64 p.length) ++ p)⟩
    pbuf := s.pbuf.writeBytes p } := by
  have hl : (be64 (BitVec.ofNat 64 p.length)).take (12 + p.length) = be64 (BitVec.ofNat 64 p.length) :=
    List.take_of_length_le (by rw [be64_length]; omega)
  have hq : p.take (12 + p.length - 8) = p := List.take_of_length_le (by omega)
  have hr : (be32 c).take (12 + p.length - 8 - p.length) = be32 c :=
    List.take_of_length_le (by rw [be32_length]; omega)
  simp only [State.readTo, State.readParts, FrameRegs.ofParts, hl, hq, hr, foldl_shiftInLen_be64,
    foldl_shiftInCsum_be32, framePhase_eval (Nat.le_refl _), be64_length, be32_length]
  rfl

/-- The segment a cut after `k` bytes falls in (R128, R129). -/
theorem segment_of_framePhase {n : Nat} (hk : k < 12 + n) :
    (if framePhase n k = .len then Segment.length else if framePhase n k = .payload then .payload else .checksum) =
      if k < 8 then .length else if k < 8 + n then .payload else .checksum := by
  by_cases hl : k < 8
  · simp [framePhase_len hl, hl]
  · by_cases hq : k < 8 + n
    · simp [framePhase_payload (Nat.not_lt.mp hl) hq, hl, hq]
    · simp [framePhase_csum (Nat.not_lt.mp hq) hk, hl, hq]

/-- Only a cut before the first byte is a boundary (R128). -/
theorem State.readTo_boundary_iff :
    (s.readTo p c k).phase = .len ∧ (s.readTo p c k).frame.lenCnt = 0#4 ↔ k = 0 := by
  rw [State.readTo_lenCnt]
  constructor
  · rintro ⟨-, hcnt⟩
    bv_omega
  · rintro rfl
    exact ⟨rfl, rfl⟩

end

/-- Settles O18: the frame is its own first `12 + L` bytes. -/
theorem readerAcceptsExactlyOneFrame : Obligations.ReaderAcceptsExactlyOneFrame := by
  unfold Obligations.ReaderAcceptsExactlyOneFrame
  intro s p c rest ts hrst hen hp hf hlt hfits hstream hturns
  have hlen := frameOf_length p c
  have hrun := runSteps_of_fresh (bs := frameOf p c) ⟨hrst, hen, hlt, hfits⟩ hp hf ⟨[], List.append_nil _⟩
    hstream (hlen ▸ hturns)
  rw [hlen, State.readTo_end] at hrun
  exact ⟨_, hrun, s.pbuf.readBytes_writeBytes p, fun a ha => s.pbuf.read_writeBytes_of_le p ha⟩

/-- Settles O19: the bytes before the cut, and IN.END in the phase they lead to. -/
theorem truncatedFrameIsIncomplete : Obligations.TruncatedFrameIsIncomplete := by
  unfold Obligations.TruncatedFrameIsIncomplete
  intro s p c k ts hrst hen hp hf hlt hfits hk hstream hturns
  have hread : s.CanRead p.length := ⟨hrst, hen, hlt, hfits⟩
  have hlen : ((frameOf p c).take k).length = k := by
    rw [List.length_take, frameOf_length]
    omega
  have hrun := runSteps_of_fresh (ts := .source :: ts) hread hp hf ⟨_, List.take_append_drop k (frameOf p c)⟩ hstream
    (by rw [hturns, hlen, List.replicate_succ', List.append_assoc]; rfl)
  rw [hlen] at hrun
  have hend := step_streamEnd (t := (s.readTo p c k).setEnv { s.env with stream := [0x100], turns := .source :: ts })
    (State.readTo_inReady (s := s) (c := c) hread hk) rfl rfl
  rw [runSteps_add 1 hrun, runSteps_of_step 0 hend]
  refine ⟨_, rfl, rfl, ?_, rfl, rfl⟩
  exact congrArg₂ (ErrRecord.mk .incompleteFrame) (segment_of_framePhase hk)
    (decide_eq_decide.mpr (State.readTo_boundary_iff (s := s) (p := p) (c := c)))

end Sys2Proof.Machine
end

section
/-! The decoder on canonical payloads (42_payload_decoder.md R193, R194): each part of `canonEncode` reads back, and so
the whole does. -/

namespace Sys2Proof.Machine

/-! ### Base64 -/

theorem b64Value_b64Char : ∀ v : BitVec 6, b64Value (b64Char v) = some v := by decide

theorem stringByte_b64Char : ∀ v : BitVec 6, StringByte (b64Char v) := by decide

/-- The four 6-bit fields of a word put it together again (R183). -/
theorem b64Word_fields (w : BitVec 24) :
    b64Word (w.extractLsb' 18 6) (w.extractLsb' 12 6) (w.extractLsb' 6 6) (w.extractLsb' 0 6) = w := by
  apply BitVec.eq_of_toNat_eq
  rw [b64Word_toNat]
  simp only [BitVec.extractLsb'_toNat, Nat.shiftRight_eq_div_pow]
  have := w.isLt
  omega

theorem append_bytes_toNat (a b c : Byte) :
    (a ++ b ++ c).toNat = a.toNat * 2 ^ 16 + b.toNat * 2 ^ 8 + c.toNat := by
  rw [BitVec.toNat_append, BitVec.toNat_append, ← Nat.shiftLeft_add_eq_or_of_lt c.isLt,
    ← Nat.shiftLeft_add_eq_or_of_lt b.isLt]
  simp only [Nat.shiftLeft_eq]
  omega

/-- The bytes of the word `a ++ b ++ c` (R183). -/
theorem append_bytes_fields (a b c : Byte) : (a ++ b ++ c).extractLsb' 16 8 = a ∧
    (a ++ b ++ c).extractLsb' 8 8 = b ∧ (a ++ b ++ c).extractLsb' 0 8 = c := by
  have ha := a.isLt
  have hb := b.isLt
  have hc := c.isLt
  refine ⟨?_, ?_, ?_⟩ <;>
    (apply BitVec.eq_of_toNat_eq
     simp only [BitVec.extractLsb'_toNat, Nat.shiftRight_eq_div_pow, append_bytes_toNat]
     omega)

/-- With one padding character the absent byte is 0 (R184). -/
theorem b64Word_pad1 (a b : Byte) : b64Word ((a ++ b ++ 0#8).extractLsb' 18 6) ((a ++ b ++ 0#8).extractLsb' 12 6)
    ((a ++ b ++ 0#8).extractLsb' 6 6) 0#6 = a ++ b ++ 0#8 := by
  have hlow : (a ++ b ++ 0#8).extractLsb' 0 6 = 0#6 := by
    apply BitVec.eq_of_toNat_eq
    simp only [BitVec.extractLsb'_toNat, Nat.shiftRight_eq_div_pow, append_bytes_toNat, BitVec.toNat_ofNat]
    omega
  rw [← hlow, b64Word_fields]

theorem append_zero16 (a : Byte) : (a ++ 0#16 : BitVec 24) = a ++ 0#8 ++ 0#8 := by
  apply BitVec.eq_of_toNat_eq
  have hl : (a ++ 0#16 : BitVec 24).toNat = a.toNat * 2 ^ 16 := by
    rw [BitVec.toNat_append, BitVec.toNat_ofNat, Nat.zero_mod, Nat.or_zero, Nat.shiftLeft_eq]
  have hr : (a ++ 0#8 ++ 0#8).toNat = a.toNat * 2 ^ 16 := by
    rw [append_bytes_toNat]
    simp
  exact hl.trans hr.symm

/-- With two padding characters both absent bytes are 0 (R184). -/
theorem b64Word_pad2 (a : Byte) : b64Word ((a ++ 0#8 ++ 0#8).extractLsb' 18 6) ((a ++ 0#8 ++ 0#8).extractLsb' 12 6)
    0#6 0#6 = a ++ 0#8 ++ 0#8 := by
  have hmid : (a ++ 0#8 ++ 0#8).extractLsb' 6 6 = 0#6 := by
    apply BitVec.eq_of_toNat_eq
    simp only [BitVec.extractLsb'_toNat, Nat.shiftRight_eq_div_pow, append_bytes_toNat, BitVec.toNat_ofNat]
    omega
  have hpad := b64Word_pad1 a 0#8
  rwa [hmid] at hpad

/-- B64Decode inverts B64Encode (R193). -/
theorem b64Decode_b64Encode (d : List Byte) : b64Decode (b64Encode d) = some d := by
  induction d using b64Encode.induct with
  | case1 => rfl
  | case2 a =>
    obtain ⟨hbyte, -⟩ := append_bytes_fields a 0#8 0#8
    simp [b64Encode, append_zero16, b64Chars, b64Decode, b64Group, b64Value_b64Char, b64Value_pad, b64Word_pad2, hbyte]
  | case3 a b =>
    obtain ⟨hbyte0, hbyte1, -⟩ := append_bytes_fields a b 0#8
    simp [b64Encode, b64Chars, b64Decode, b64Group, b64Value_b64Char, b64Value_pad, b64Word_pad1, hbyte0, hbyte1]
  | case4 a b c rest ih =>
    obtain ⟨hbyte0, hbyte1, hbyte2⟩ := append_bytes_fields a b c
    simp [b64Encode, b64Chars, b64Decode, b64Group, b64Value_b64Char, b64Word_fields, ih, hbyte0, hbyte1, hbyte2]

theorem stringByte_b64Chars (w : BitVec 24) : ∀ x ∈ b64Chars w, StringByte x := by
  intro x hx
  simp only [b64Chars, List.mem_cons, List.not_mem_nil, or_false] at hx
  rcases hx with rfl | rfl | rfl | rfl <;> exact stringByte_b64Char _

theorem stringByte_pad : StringByte 0x3D#8 := by decide

theorem stringByte_b64Encode (d : List Byte) : ∀ x ∈ b64Encode d, StringByte x := by
  induction d using b64Encode.induct with
  | case1 => exact fun _ hx => nomatch hx
  | case2 a =>
    refine List.forall_mem_append.mpr ⟨fun x hx => stringByte_b64Chars _ x (List.mem_of_mem_take hx), ?_⟩
    simpa using stringByte_pad
  | case3 a b =>
    refine List.forall_mem_append.mpr ⟨fun x hx => stringByte_b64Chars _ x (List.mem_of_mem_take hx), ?_⟩
    simpa using stringByte_pad
  | case4 a b c rest ih => exact List.forall_mem_append.mpr ⟨stringByte_b64Chars _, ih⟩

/-! ### The discriminant -/

theorem digitChar_toNat {n : Nat} (h : n < 10) : (digitChar n).toNat = 0x30 + n := by
  unfold digitChar
  rw [BitVec.toNat_ofNat]
  omega

theorem digitChar_range {n : Nat} (h : n < 10) : 0x30 ≤ (digitChar n).toNat ∧ (digitChar n).toNat ≤ 0x39 := by
  rw [digitChar_toNat h]
  omega

theorem digitChar_ne_zero {n : Nat} (h : n < 10) (h0 : 0 < n) : digitChar n ≠ 0x30 := fun he => by
  have := congrArg BitVec.toNat he
  rw [digitChar_toNat h] at this
  exact absurd this (by simp; omega)

/-- `Dec(t)` is the literal of `t` (R177, R180). -/
theorem typeLiteral_decDigits (t : Byte) : TypeLiteral (decDigits t) t := by
  have ht := t.isLt
  unfold decDigits
  simp only
  split
  · rename_i h1
    refine ⟨by simp, by simpa using digitChar_range h1, ?_, ?_⟩
    · rcases Nat.eq_zero_or_pos t.toNat with h0 | h0
      · exact .inl (by rw [h0]; rfl)
      · exact .inr (by simpa using digitChar_ne_zero h1 h0)
    · simp [decimalValue, digitChar_toNat h1]
  · split
    · have h1 : t.toNat / 10 < 10 := by omega
      have h2 : t.toNat % 10 < 10 := by omega
      refine ⟨by simp, ?_, .inr (by simpa using digitChar_ne_zero h1 (by omega)), ?_⟩
      · simp [digitChar_range h1, digitChar_range h2]
      · simp [decimalValue, digitChar_toNat h1, digitChar_toNat h2]
        omega
    · have h1 : t.toNat / 100 < 10 := by omega
      have h2 : t.toNat / 10 % 10 < 10 := by omega
      have h3 : t.toNat % 10 < 10 := by omega
      refine ⟨by simp, ?_, .inr (by simpa using digitChar_ne_zero h1 (by omega)), ?_⟩
      · simp [digitChar_range h1, digitChar_range h2, digitChar_range h3]
      · simp [decimalValue, digitChar_toNat h1, digitChar_toNat h2, digitChar_toNat h3]
        omega

theorem parseUint8_decDigits (t : Byte) {r : List Byte} (h : startsWithDigit r = false) :
    parseUint8 (decDigits t ++ r) = some (t, r) :=
  parseUint8_eq_some.mpr ⟨_, rfl, typeLiteral_decDigits t, h⟩

/-! ### A member and the whole payload (R171, R175) -/

theorem expectByte_cons (c : Byte) (r : List Byte) : expectByte c (c :: r) = some r :=
  expectByte_eq_some.mpr rfl

theorem parseBase64_quoted (d r : List Byte) : parseBase64 (quoted (b64Encode d) ++ r) = some (d, r) := by
  unfold parseBase64
  rw [scanString_eq_some.mpr ⟨rfl, stringByte_b64Encode d⟩]
  simp [b64Decode_b64Encode]

/-- A member without white space reads as its value does. -/
theorem parseMember_quoted {k : Params} {m m' : Members} {key q r : List Byte} (hkey : ∀ b ∈ key, StringByte b)
    (hq : skipWs q = q) (hr : skipWs r = r) (h : parseValue k key m q = some (m', r)) :
    parseMember k m (quoted key ++ 0x3A :: q) = some (m', r) := by
  have hopen : skipWs (quoted key ++ 0x3A :: q) = quoted key ++ 0x3A :: q := skipWs_cons _ (by decide)
  have hcolon : skipWs (0x3A :: q) = 0x3A :: q := skipWs_cons _ (by decide)
  unfold parseMember
  simp only [hopen, scanString_eq_some.mpr ⟨rfl, hkey⟩, Option.bind_some, hcolon, expectByte_cons, hq, h,
    Option.map_some, hr]

theorem stringByte_of_isKeyByte {b : Byte} (h : isKeyByte b = true) : StringByte b := by
  simp only [isKeyByte, Bool.and_eq_true, bne_iff_ne, decide_eq_true_eq] at h
  exact ⟨h.1.1, h.1.2, h.2⟩

/-- The keys as R9 has them: of string bytes, and different. -/
theorem wellFormed_keys {k : Params} (h : k.WellFormed) :
    (∀ b ∈ k.keyType, StringByte b) ∧ (∀ b ∈ k.keyData, StringByte b) ∧ k.keyData ≠ k.keyType := by
  simp only [Params.WellFormed, Params.wellFormed, Bool.and_eq_true, bne_iff_ne, List.all_eq_true] at h
  obtain ⟨⟨⟨-, hne⟩, htype⟩, hdata⟩ := h
  exact ⟨fun b hb => stringByte_of_isKeyByte (htype b hb), fun b hb => stringByte_of_isKeyByte (hdata b hb),
    Ne.symm hne⟩

theorem skipWs_decDigits (t : Byte) (r : List Byte) : skipWs (decDigits t ++ r) = decDigits t ++ r := by
  obtain ⟨hne, hdig, -⟩ := typeLiteral_decDigits t
  obtain ⟨b, l, hbl⟩ := List.exists_cons_of_ne_nil hne
  rw [hbl] at hdig ⊢
  obtain ⟨hge, -⟩ := hdig b List.mem_cons_self
  refine skipWs_cons _ ?_
  rw [← Bool.not_eq_true, isWs_iff]
  rintro (rfl | rfl | rfl | rfl) <;> exact absurd hge (by decide)

/-- The `type` member of a canonical payload. -/
theorem parseMember_type {k : Params} (hkey : ∀ b ∈ k.keyType, StringByte b) (t : Byte) (r : List Byte) :
    parseMember k ⟨none, none⟩ (quoted k.keyType ++ 0x3A :: (decDigits t ++ 0x2C :: r)) =
      some (⟨some t, none⟩, 0x2C :: r) := by
  refine parseMember_quoted hkey (skipWs_decDigits t _) (skipWs_cons _ (by decide)) ?_
  unfold parseValue
  rw [if_pos ⟨rfl, rfl⟩, parseUint8_decDigits t rfl]
  rfl

/-- The `data` member of a canonical payload, after the `type` member. -/
theorem parseMember_data {k : Params} (hkey : ∀ b ∈ k.keyData, StringByte b) (hne : k.keyData ≠ k.keyType) (t : Byte)
    (d r : List Byte) :
    parseMember k ⟨some t, none⟩ (quoted k.keyData ++ 0x3A :: (quoted (b64Encode d) ++ 0x7D :: r)) =
      some (⟨some t, some d⟩, 0x7D :: r) := by
  refine parseMember_quoted hkey (skipWs_cons _ (by decide)) (skipWs_cons _ (by decide)) ?_
  unfold parseValue
  rw [if_neg (fun h => hne h.1), if_pos ⟨rfl, rfl⟩, parseBase64_quoted]
  rfl

/-- A canonical payload from its first byte on (R193). -/
theorem canonEncode_eq (k : Params) (t : Byte) (d : List Byte) : canonEncode k t d =
    0x7B :: (quoted k.keyType ++ 0x3A :: (decDigits t ++ 0x2C ::
      (quoted k.keyData ++ 0x3A :: (quoted (b64Encode d) ++ 0x7D :: [])))) := by
  simp [canonEncode]

/-- Every message comes back from its canonical payload (R194). -/
theorem decodeJson_canonEncode {k : Params} (h : k.WellFormed) (t : Byte) (d : List Byte) :
    decodeJson k (canonEncode k t d) = some (t, d) := by
  obtain ⟨htype, hdata, hne⟩ := wellFormed_keys h
  have hopen (r : List Byte) : skipWs (0x7B :: r) = 0x7B :: r := skipWs_cons r (by decide)
  unfold decodeJson
  simp only [canonEncode_eq, hopen, expectByte_cons, Option.bind_some, parseMember_type htype,
    parseMember_data hdata hne]
  rfl

end Sys2Proof.Machine
end

section
/-! The way of a framed message through the block (43_router.md R214): reader, EVAL, DELIVER. -/

namespace Sys2Proof.Machine

/-- The checksum that a frame with payload `p` carries when nothing was changed on the way (R151). -/
def frameChecksum (p : List Byte) : U32 :=
  crc32 (be64 (BitVec.ofNat 64 p.length) ++ p)

theorem frameBytes_eq (p : List Byte) : frameBytes p = frameOf p (frameChecksum p) := rfl

theorem payloadDecode_of_jsonStrict {k : Params} (h : k.codec = .jsonStrict) (p : List Byte) :
    payloadDecode k p = decodeJson k p := by
  unfold payloadDecode
  rw [h]

/-- EVAL of a whole frame with the right checksum and a payload that parses (R152, R189, R210). -/
theorem evalStep_readTo_end {s : State} {p d : List Byte} {t : Byte} (h : s.CanRead p.length)
    (hd : payloadDecode s.params p = some (t, d)) :
    evalStep (s.readTo p (frameChecksum p) (12 + p.length)) =
      .next (((s.readTo p (frameChecksum p) (12 + p.length)).latchMessage t d).setRoute (classify t)) := by
  have hphase := framePhase_eval (Nat.le_refl (12 + p.length))
  have hfit := State.readTo_fits (c := frameChecksum p) (k := 12 + p.length) h (by omega)
  have hcrc : (s.readTo p (frameChecksum p) (12 + p.length)).frame.crcCalc =
      (s.readTo p (frameChecksum p) (12 + p.length)).frame.csumReg := by
    simp only [State.readTo_end, FrameRegs.crcCalc, frameChecksum, crc32]
  have hbytes : (s.readTo p (frameChecksum p) (12 + p.length)).payloadBytes = p := by
    simp only [State.payloadBytes, State.readTo_end, BitVec.toNat_ofNat, Nat.mod_eq_of_lt h.lt]
    exact Memory.bytesAt_of_readBytes _ (s.pbuf.readBytes_writeBytes p)
  have hmessage : payloadDecode (s.readTo p (frameChecksum p) (12 + p.length)).params
      (s.readTo p (frameChecksum p) (12 + p.length)).payloadBytes = some (t, d) := by
    rw [hbytes]
    exact hd
  rw [evalStep_of_message hphase hcrc hfit hmessage, exec_disc]

/-- What DELIVER writes (R214). -/
theorem State.deliver_eq (s : State) : s.deliver = { s with
    phase := .len
    frame := FrameRegs.init
    cnt := { s.cnt with ok := s.cnt.ok + 1#32 }
    env := { s.env with received := s.env.received ++ [⟨s.msgRoute, s.msgType, s.msgData⟩] } } := rfl

theorem deliverStep_of_ready {s : State} (hp : s.phase = .deliver) (hr : s.sinkReadyOn s.msgRoute = true) :
    deliverStep s = .next s.deliver :=
  if_pos ⟨hp, hr⟩

/-- A sink that is ready on all four ports is ready on each. -/
theorem State.sinkReadyOn_of_all {s : State} (h : s.env.sinkReady = 0xF) (r : Route) : s.sinkReadyOn r = true := by
  unfold State.sinkReadyOn
  rw [h]
  cases r <;> rfl

/-- The block's turn, then the sink's, where EVAL gives a message that the sink is ready for. -/
theorem runSteps_eval_deliver {s t : State} {ts : List Turn} (hturns : s.env.turns = .block :: .sink :: ts)
    (heval : evalStep (s.setTurns (.sink :: ts)) = .next t) (ht : t.env.turns = .sink :: ts)
    (hp : t.phase = .deliver) (hr : t.sinkReadyOn t.msgRoute = true) :
    runSteps 2 s = .next (t.setTurns ts).deliver := by
  have hblock : step s = .next t := (step_of_turns hturns).trans heval
  have hsink : step t = .next (t.setTurns ts).deliver := (step_of_turns ht).trans (deliverStep_of_ready hp hr)
  rw [runSteps_of_step 1 hblock, runSteps_of_step 0 hsink]
  rfl

/-- Settles O33: the reader takes the frame, EVAL finds the message in PBUF and DELIVER hands it over. -/
theorem framedMessageIsDelivered : Obligations.FramedMessageIsDelivered := by
  unfold Obligations.FramedMessageIsDelivered
  rintro s t d rest ts _ rfl hlt hwf hcodec hfits hrst hen hp hf hsink hstream hturns
  generalize hpay : canonEncode s.params t d = p at *
  have hlen := frameOf_length p (frameChecksum p)
  have hturns' : s.env.turns =
      List.replicate (frameOf p (frameChecksum p)).length .source ++ .block :: .sink :: ts := by
    rw [hlen, hturns, List.append_assoc]
    rfl
  have hread : s.CanRead p.length := ⟨hrst, hen, hlt, hfits⟩
  have hframe := runSteps_of_fresh hread hp hf ⟨[], List.append_nil _⟩ (frameBytes_eq p ▸ hstream) hturns'
  rw [hlen] at hframe
  have hdecode : payloadDecode s.params p = some (t, d) := by
    rw [payloadDecode_of_jsonStrict hcodec, ← hpay, decodeJson_canonEncode hwf]
  have heval := evalStep_readTo_end (hread.setEnv { s.env with stream := rest, turns := .sink :: ts }) hdecode
  have htail := runSteps_eval_deliver (s := (s.readTo p (frameChecksum p) (12 + p.length)).setEnv
    { s.env with stream := rest, turns := .block :: .sink :: ts }) rfl heval rfl rfl
    (State.sinkReadyOn_of_all hsink _)
  have hsteps : 14 + p.length = 12 + p.length + 2 := by omega
  rw [hsteps, runSteps_add 2 hframe, htail, State.deliver_eq]
  exact ⟨_, rfl, rfl, rfl, rfl, rfl, rfl, rfl, rfl⟩

end Sys2Proof.Machine
end

section
/-! The checksum (41_checksum_verifier.md): CrcStep is eight linear, injective shifts, and EVAL of a frame whose
checksum differs. -/

namespace Sys2Proof.Machine

/-! ### A number of shifts -/

theorem repeat_crcShift_xor (n : Nat) (a b : U32) :
    Nat.repeat crcShift n (a ^^^ b) = Nat.repeat crcShift n a ^^^ Nat.repeat crcShift n b := by
  induction n with
  | zero => rfl
  | succ n ih => exact (congrArg crcShift ih).trans (crcShift_xor _ _)

theorem repeat_crcShift_injective (n : Nat) : Function.Injective (Nat.repeat crcShift n) := by
  induction n with
  | zero => exact fun _ _ h => h
  | succ n ih => exact fun _ _ h => ih (crcShift_injective h)

/-- A shift whose outgoing bit is 0 does not add the polynomial. -/
theorem crcShift_of_low_zero {c : U32} (h : c.getLsbD 0 = false) : crcShift c = c >>> 1 := by
  unfold crcShift
  rw [h, if_neg Bool.false_ne_true]

/-- As long as only zeros go out the register is just shifted. -/
theorem repeat_crcShift_of_low_zero {n : Nat} {c : U32} (h : ∀ i < n, c.getLsbD i = false) :
    Nat.repeat crcShift n c = c >>> n := by
  induction n with
  | zero => simp [Nat.repeat]
  | succ n ih =>
    have hout : (c >>> n).getLsbD 0 = false := by
      simpa using h n (Nat.lt_succ_self n)
    calc Nat.repeat crcShift (n + 1) c
        = crcShift (Nat.repeat crcShift n c) := rfl
      _ = crcShift (c >>> n) := by rw [ih fun i hi => h i (Nat.lt_succ_of_lt hi)]
      _ = c >>> n >>> 1 := crcShift_of_low_zero hout
      _ = c >>> (n + 1) := (BitVec.shiftRight_add c n 1).symm

/-! ### One byte -/

/-- The high 24 bits of a register, in place. -/
def crcHigh (x : U32) : U32 :=
  x ^^^ (x.setWidth 8).setWidth 32

theorem crcHigh_xor_low (x : U32) : crcHigh x ^^^ (x.setWidth 8).setWidth 32 = x := by
  rw [crcHigh, BitVec.xor_assoc, BitVec.xor_self, BitVec.xor_zero]

theorem crcHigh_getLsbD (x : U32) (i : Nat) : (crcHigh x).getLsbD i = (decide (8 ≤ i) && x.getLsbD i) := by
  unfold crcHigh
  by_cases hi : i < 8
  · simp [hi, Nat.lt_trans hi (by decide : 8 < 32)]
  · simp [Nat.not_lt.mp hi]

/-- A byte does not reach the high 24 bits before it is shifted (R150). -/
theorem crcHigh_xor_byte_shift (c : U32) (b : Byte) : crcHigh (c ^^^ b.setWidth 32) >>> 8 = c >>> 8 := by
  apply BitVec.eq_of_getLsbD_eq
  intro i _
  simp [crcHigh_getLsbD]

/-- The table's entry for a byte (R157). -/
theorem crcStep_zero (b : Byte) : crcStep 0 b = Nat.repeat crcShift 8 (b.setWidth 32) :=
  congrArg (Nat.repeat crcShift 8) BitVec.zero_xor

theorem crcStep_state_injective (b : Byte) : Function.Injective (crcStep · b) :=
  fun _ _ h => (BitVec.xor_left_inj _).mp (repeat_crcShift_injective 8 h)

theorem crcStep_byte_injective (c : U32) : Function.Injective (crcStep c) := by
  intro b b' h
  have hwide : b.setWidth 32 = b'.setWidth 32 := (BitVec.xor_right_inj _).mp (repeat_crcShift_injective 8 h)
  simpa using congrArg (BitVec.setWidth 8) hwide

/-! ### A byte string -/

/-- Different states stay different whatever bytes follow. -/
theorem crcRun_injective (bs : List Byte) : Function.Injective (crcRun · bs) := by
  induction bs with
  | nil => exact fun _ _ h => h
  | cons b bs ih => exact fun _ _ h => crcStep_state_injective b (ih h)

/-- EVAL of a frame whose checksum differs from the computed one (R152). -/
theorem evalStep_of_mismatch {s : State} (hp : s.phase = .eval) (hc : s.frame.crcCalc ≠ s.frame.csumReg) :
    evalStep s = .next (s.raisePlain .checksumMismatch) := by
  unfold evalStep
  rw [if_pos hp, if_neg hc]

/-- Settles O20: the high 24 bits of the register are only shifted down, and the low byte, shifted alone, is the
table's entry. -/
theorem crcStepHasTableForm : Obligations.CrcStepHasTableForm := by
  unfold Obligations.CrcStepHasTableForm
  intro c b
  generalize hx : c ^^^ b.setWidth 32 = x
  have hlow : ∀ i < 8, (crcHigh x).getLsbD i = false := fun i hi => by
    simp [crcHigh_getLsbD, Nat.not_le.mpr hi]
  have hshift : crcHigh x >>> 8 = c >>> 8 := hx ▸ crcHigh_xor_byte_shift c b
  calc crcStep c b
      = Nat.repeat crcShift 8 (crcHigh x ^^^ (x.setWidth 8).setWidth 32) := by rw [crcHigh_xor_low, ← hx, crcStep]
    _ = Nat.repeat crcShift 8 (crcHigh x) ^^^ Nat.repeat crcShift 8 ((x.setWidth 8).setWidth 32) :=
        repeat_crcShift_xor 8 _ _
    _ = c >>> 8 ^^^ Nat.repeat crcShift 8 ((x.setWidth 8).setWidth 32) := by
        rw [repeat_crcShift_of_low_zero hlow, hshift]
    _ = c >>> 8 ^^^ crcStep 0 (x.setWidth 8) := by rw [crcStep_zero]

/-- Settles O21: the states part at the changed byte and never meet again. -/
theorem singleByteChangeIsDetected : Obligations.SingleByteChangeIsDetected := by
  unfold Obligations.SingleByteChangeIsDetected
  intro before after b b' hne heq
  have hrun := (BitVec.xor_left_inj _).mp heq
  rw [crcRun_append, crcRun_append, crcRun_cons, crcRun_cons] at hrun
  exact hne (crcStep_byte_injective _ (crcRun_injective after hrun))

/-- Settles O22: the checksum is compared before PBUF is read. -/
theorem mismatchDiscardsTheFrame : Obligations.MismatchDiscardsTheFrame := by
  unfold Obligations.MismatchDiscardsTheFrame
  intro s ts hturn hp hcrc
  rw [step_of_turns hturn]
  exact evalStep_of_mismatch (s := s.setTurns ts) hp hcrc

end Sys2Proof.Machine
end

section
/-! The decoder and its grammar (42_payload_decoder.md R171 to R188): each stage of R188 reads the text of one rule of
the grammar, up to what follows it. -/

namespace Sys2Proof.Machine

/-! ### White space (R172) -/

/-- SkipWS stops at the end or at a byte that is no white space, and reads white space up to there. -/
theorem skipWs_eq_iff {p q : List Byte} (hq : skipWs q = q) : skipWs p = q ↔ ∃ w, WsRun w ∧ p = w ++ q := by
  constructor
  · rintro rfl
    obtain ⟨w, hw, hp, -⟩ := skipWs_split p
    exact ⟨w, hw, hp⟩
  · rintro ⟨w, hw, rfl⟩
    rw [skipWs_append q hw, hq]

theorem skipWs_idem (p : List Byte) : skipWs (skipWs p) = skipWs p := by
  obtain ⟨w, hw, hp, -⟩ := skipWs_split p
  conv_rhs => rw [hp, skipWs_append _ hw]

/-- Expect after SkipWS reads white space and its byte, when that byte is no white space itself. -/
theorem expectByte_skipWs_eq_some {c : Byte} {p r : List Byte} (hc : isWs c = false) :
    expectByte c (skipWs p) = some r ↔ ∃ w, WsRun w ∧ p = w ++ c :: r :=
  expectByte_eq_some.trans (skipWs_eq_iff (skipWs_cons r hc))

theorem isWs_of_isDigit {b : Byte} (h : isDigit b = true) : isWs b = false := by
  obtain ⟨hge, -⟩ := (isDigit_iff b).mp h
  rw [← Bool.not_eq_true, isWs_iff]
  rintro (rfl | rfl | rfl | rfl) <;> exact absurd hge (by decide)

/-- No digit follows a number that ends at white space or at `c`. -/
theorem startsWithDigit_wsRun_cons {w : List Byte} {c : Byte} (q : List Byte) (hw : WsRun w)
    (hc : isDigit c = false) : startsWithDigit (w ++ c :: q) = false := by
  cases w with
  | nil => exact hc
  | cons b w =>
    have hb : isWs b = true := (isWs_iff b).mpr (hw b List.mem_cons_self)
    refine Bool.eq_false_iff.mpr fun hd => ?_
    rw [isWs_of_isDigit hd] at hb
    cases hb

/-! ### Strings and the two values (R173, R177 to R185) -/

theorem skipWs_quoted (body r : List Byte) : skipWs (quoted body ++ r) = quoted body ++ r :=
  skipWs_cons _ (by decide)

theorem scanString_quoted {body : List Byte} (h : ∀ b ∈ body, StringByte b) (r : List Byte) :
    scanString (quoted body ++ r) = some (body, r) :=
  scanString_eq_some.mpr ⟨rfl, h⟩

theorem stringByte_of_b64Char {b : Byte} {v : Nat} (h : B64Char b v) : StringByte b := by
  have halphabet : ∀ x ∈ b64Alphabet, StringByte x := by decide
  exact halphabet b (List.mem_of_getElem? h)

/-- Base64 content may stand between quotes (R181). -/
theorem stringByte_of_base64Text {l d : List Byte} (h : Base64Text l d) : ∀ b ∈ l, StringByte b := by
  induction h with
  | empty => exact fun _ hb => nomatch hb
  | full h0 h1 h2 h3 _ ih =>
    simpa only [List.forall_mem_cons] using ⟨stringByte_of_b64Char h0, stringByte_of_b64Char h1,
      stringByte_of_b64Char h2, stringByte_of_b64Char h3, ih⟩
  | pad1 h0 h1 h2 =>
    simpa only [List.forall_mem_cons] using ⟨stringByte_of_b64Char h0, stringByte_of_b64Char h1,
      stringByte_of_b64Char h2, stringByte_pad, List.forall_mem_nil _⟩
  | pad2 h0 h1 =>
    simpa only [List.forall_mem_cons] using ⟨stringByte_of_b64Char h0, stringByte_of_b64Char h1, stringByte_pad,
      stringByte_pad, List.forall_mem_nil _⟩

/-- ParseBase64 reads base64 content between quotes (R181). -/
theorem parseBase64_eq_some {p d r : List Byte} :
    parseBase64 p = some (d, r) ↔ ∃ body, p = quoted body ++ r ∧ Base64Text body d := by
  unfold parseBase64
  constructor
  · intro h
    obtain ⟨⟨body, q⟩, hs, hm⟩ := Option.bind_eq_some_iff.mp h
    obtain ⟨_, hd, he⟩ := Option.map_eq_some_iff.mp hm
    obtain ⟨rfl, rfl⟩ := Prod.mk.inj he
    obtain ⟨hp, -⟩ := scanString_eq_some.mp hs
    exact ⟨body, hp, b64Decode_eq_some.mp hd⟩
  · rintro ⟨body, rfl, hd⟩
    rw [scanString_quoted (stringByte_of_base64Text hd), Option.bind_some, b64Decode_of_text hd]
    rfl

/-- The value text `v` of the key `key`, a field that `m` does not have yet; `m'` has it (R175, R176). -/
inductive ValueText (k : Params) (m : Members) : List Byte → List Byte → Members → Prop where
  /-- The value of the `type` member (R177). -/
  | type {lit : List Byte} {t : Byte} : m.t = none → TypeLiteral lit t →
      ValueText k m k.keyType lit { m with t := some t }
  /-- The value of the `data` member (R181). -/
  | data {body d : List Byte} : m.d = none → Base64Text body d →
      ValueText k m k.keyData (quoted body) { m with d := some d }

variable {k : Params} {m m' : Members} {key p q r v : List Byte}

/-- A value's first byte is a digit or a quote, so no white space. -/
theorem ValueText.skipWs_append (h : ValueText k m key v m') (r : List Byte) : skipWs (v ++ r) = v ++ r := by
  cases h with
  | type _ hlit =>
    obtain ⟨hne, hdig, -⟩ := hlit
    obtain ⟨b, l, rfl⟩ := List.exists_cons_of_ne_nil hne
    exact skipWs_cons _ (isWs_of_isDigit ((isDigit_iff b).mpr (hdig b List.mem_cons_self)))
  | data => exact skipWs_quoted _ r

theorem ValueText.stringByte_key (h : ValueText k m key v m') (hwf : k.WellFormed) : ∀ b ∈ key, StringByte b := by
  obtain ⟨htype, hdata, -⟩ := wellFormed_keys hwf
  cases h with
  | type => exact htype
  | data => exact hdata

/-- What `parseValue` reads is the text of a value. -/
theorem valueText_of_parseValue (h : parseValue k key m p = some (m', r)) :
    ∃ v, p = v ++ r ∧ ValueText k m key v m' := by
  unfold parseValue at h
  split at h
  · rename_i htype
    obtain ⟨rfl, hnone⟩ := htype
    obtain ⟨⟨t, _⟩, hu, he⟩ := Option.map_eq_some_iff.mp h
    obtain ⟨rfl, rfl⟩ := Prod.mk.inj he
    obtain ⟨lit, hp, hlit, -⟩ := parseUint8_eq_some.mp hu
    exact ⟨lit, hp, .type hnone hlit⟩
  · split at h
    · rename_i hdata
      obtain ⟨rfl, hnone⟩ := hdata
      obtain ⟨⟨d, _⟩, hb, he⟩ := Option.map_eq_some_iff.mp h
      obtain ⟨rfl, rfl⟩ := Prod.mk.inj he
      obtain ⟨body, hp, htext⟩ := parseBase64_eq_some.mp hb
      exact ⟨quoted body, hp, .data hnone htext⟩
    · cases h

/-- The text of a value is read in full where no digit follows it; the keys differ, so the `data` key is not taken for
the `type` key. -/
theorem ValueText.parseValue_eq (h : ValueText k m key v m') (hwf : k.WellFormed) (hr : startsWithDigit r = false) :
    parseValue k key m (v ++ r) = some (m', r) := by
  obtain ⟨-, -, hne⟩ := wellFormed_keys hwf
  unfold parseValue
  cases h with
  | type hnone hlit =>
    rw [if_pos ⟨rfl, hnone⟩, parseUint8_eq_some.mpr ⟨_, rfl, hlit, hr⟩]
    rfl
  | data hnone htext =>
    rw [if_neg (fun hkey => hne hkey.1), if_pos ⟨rfl, hnone⟩, parseBase64_eq_some.mpr ⟨_, rfl, htext⟩]
    rfl

/-! ### A member (R171, R175) -/

/-- The text `l` of a member that `m` does not have yet; `m'` has it. -/
def ReadsMember (k : Params) (m : Members) (l : List Byte) (m' : Members) : Prop :=
  ∃ key v, ValueText k m key v m' ∧ MemberText key v l

theorem readsMember_type {l : List Byte} {t : Byte} (h : TypeMember k l t) (hm : m.t = none) :
    ReadsMember k m l { m with t := some t } := by
  obtain ⟨lit, hlit, hl⟩ := h
  exact ⟨_, _, .type hm hlit, hl⟩

theorem readsMember_data {l d : List Byte} (h : DataMember k l d) (hm : m.d = none) :
    ReadsMember k m l { m with d := some d } := by
  obtain ⟨body, htext, hl⟩ := h
  exact ⟨_, _, .data hm htext, hl⟩

/-- A member is the `type` member or the `data` member (R175). -/
theorem ReadsMember.type_or_data {l : List Byte} (h : ReadsMember k m l m') :
    (∃ t, m.t = none ∧ TypeMember k l t ∧ m' = { m with t := some t }) ∨
      (∃ d, m.d = none ∧ DataMember k l d ∧ m' = { m with d := some d }) := by
  obtain ⟨key, v, hv, hl⟩ := h
  cases hv with
  | type hnone hlit => exact .inl ⟨_, hnone, ⟨_, hlit, hl⟩, rfl⟩
  | data hnone htext => exact .inr ⟨_, hnone, ⟨_, htext, hl⟩, rfl⟩

/-- Two members that fill both fields are one `type` and one `data` member, in either order (R175, R176). -/
theorem readsMember_both_iff {m1 m2 d : List Byte} {t : Byte} :
    (∃ m, ReadsMember k ⟨none, none⟩ m1 m ∧ ReadsMember k m m2 ⟨some t, some d⟩) ↔
      (TypeMember k m1 t ∧ DataMember k m2 d) ∨ (DataMember k m1 d ∧ TypeMember k m2 t) := by
  constructor
  · rintro ⟨m, h1, h2⟩
    obtain ⟨t', -, ht, rfl⟩ | ⟨d', -, hd, rfl⟩ := h1.type_or_data
    · obtain ⟨_, hnone, -⟩ | ⟨d', -, hd, he⟩ := h2.type_or_data
      · cases hnone
      · obtain ⟨rfl, rfl⟩ : t = t' ∧ d = d' := by simpa using he
        exact .inl ⟨ht, hd⟩
    · obtain ⟨t', -, ht, he⟩ | ⟨_, hnone, -⟩ := h2.type_or_data
      · obtain ⟨rfl, rfl⟩ : t = t' ∧ d = d' := by simpa using he
        exact .inr ⟨hd, ht⟩
      · cases hnone
  · rintro (⟨ht, hd⟩ | ⟨hd, ht⟩)
    · exact ⟨_, readsMember_type ht rfl, readsMember_data hd rfl⟩
    · exact ⟨_, readsMember_data hd rfl, readsMember_type ht rfl⟩

/-- What `parseMember` reads up to a byte `c` is a member with white space around it. -/
theorem readsMember_of_parseMember {c : Byte} (h : parseMember k m p = some (m', c :: q)) :
    ∃ w l w', WsRun w ∧ WsRun w' ∧ p = w ++ l ++ w' ++ c :: q ∧ ReadsMember k m l m' := by
  obtain ⟨⟨key, r0⟩, hkey, h⟩ := Option.bind_eq_some_iff.mp h
  obtain ⟨r1, hcolon, h⟩ := Option.bind_eq_some_iff.mp h
  obtain ⟨⟨_, r2⟩, hval, he⟩ := Option.map_eq_some_iff.mp h
  obtain ⟨rfl, hend⟩ := Prod.mk.inj he
  obtain ⟨hopen, -⟩ := scanString_eq_some.mp hkey
  obtain ⟨v, hv, htext⟩ := valueText_of_parseValue hval
  obtain ⟨w, hw, hp, -⟩ := skipWs_split p
  obtain ⟨w1, hw1, hr0⟩ : ∃ w1, WsRun w1 ∧ r0 = w1 ++ 0x3A :: r1 :=
    (expectByte_skipWs_eq_some (by decide)).mp hcolon
  obtain ⟨w2, hw2, hr1, -⟩ := skipWs_split r1
  obtain ⟨w', hw', hr2⟩ : ∃ w', WsRun w' ∧ r2 = w' ++ c :: q :=
    (skipWs_eq_iff (hend ▸ skipWs_idem r2)).mp hend
  refine ⟨w, quoted key ++ w1 ++ [0x3A] ++ w2 ++ v, w', hw, hw', ?_, key, v, htext, w1, w2, hw1, hw2, rfl⟩
  rw [hp, hopen, hr0, hr1, hv, hr2]
  simp only [List.append_assoc, List.cons_append, List.nil_append]

/-- A member with white space around it is read in full where a byte follows that is neither white space nor a digit. -/
theorem ReadsMember.parseMember_eq {c : Byte} {w l w' : List Byte} (h : ReadsMember k m l m') (hwf : k.WellFormed)
    (hw : WsRun w) (hw' : WsRun w') (hc : isWs c = false) (hd : isDigit c = false) :
    parseMember k m (w ++ l ++ w' ++ c :: q) = some (m', c :: q) := by
  obtain ⟨key, v, hv, w1, w2, hw1, hw2, rfl⟩ := h
  have hcolon (r : List Byte) : skipWs (0x3A :: r) = 0x3A :: r := skipWs_cons r (by decide)
  unfold parseMember
  simp only [List.append_assoc, List.cons_append, List.nil_append, skipWs_append _ hw, skipWs_quoted,
    scanString_quoted (hv.stringByte_key hwf), Option.bind_some, skipWs_append _ hw1, hcolon, expectByte_cons,
    skipWs_append _ hw2, hv.skipWs_append, hv.parseValue_eq hwf (startsWithDigit_wsRun_cons q hw' hd),
    Option.map_some, skipWs_append _ hw', skipWs_cons q hc]

/-! ### The whole payload (R171) -/

theorem Members.both_eq_some {t : Byte} {d : List Byte} : m.both = some (t, d) ↔ m = ⟨some t, some d⟩ := by
  obtain ⟨t', d'⟩ := m
  cases t' <;> cases d' <;> simp [Members.both]

/-- R188 reads the object of R171 around two members that fill both fields. -/
theorem decodeJson_eq_some {t : Byte} {d : List Byte} (hwf : k.WellFormed) :
    decodeJson k p = some (t, d) ↔ ∃ m1 m2, ObjectText m1 m2 p ∧
      ∃ m, ReadsMember k ⟨none, none⟩ m1 m ∧ ReadsMember k m m2 ⟨some t, some d⟩ := by
  constructor
  · intro h
    obtain ⟨p1, hopen, h⟩ := Option.bind_eq_some_iff.mp h
    obtain ⟨⟨m, r1⟩, hm1, h⟩ := Option.bind_eq_some_iff.mp h
    obtain ⟨p2, hcomma, h⟩ := Option.bind_eq_some_iff.mp h
    obtain ⟨⟨n, r2⟩, hm2, h⟩ := Option.bind_eq_some_iff.mp h
    obtain ⟨p3, hclose, h⟩ := Option.bind_eq_some_iff.mp h
    split at h
    · rename_i hend
      obtain rfl := expectByte_eq_some.mp hcomma
      obtain rfl := expectByte_eq_some.mp hclose
      obtain rfl := Members.both_eq_some.mp h
      obtain ⟨w0, hw0, rfl⟩ := (expectByte_skipWs_eq_some (by decide)).mp hopen
      obtain ⟨w1, l1, w2, hw1, hw2, rfl, hl1⟩ := readsMember_of_parseMember hm1
      obtain ⟨w3, l2, w4, hw3, hw4, rfl, hl2⟩ := readsMember_of_parseMember hm2
      obtain ⟨w5, hw5, rfl⟩ := (skipWs_eq_iff rfl).mp hend
      refine ⟨l1, l2, ⟨w0, w1, w2, w3, w4, w5, hw0, hw1, hw2, hw3, hw4, hw5, ?_⟩, m, hl1, hl2⟩
      simp only [List.append_assoc, List.cons_append, List.nil_append, List.append_nil]
    · cases h
  · rintro ⟨l1, l2, ⟨w0, w1, w2, w3, w4, w5, hw0, hw1, hw2, hw3, hw4, hw5, hp⟩, m, hl1, hl2⟩
    have hopen : expectByte 0x7B (skipWs p) = some (w1 ++ l1 ++ w2 ++ 0x2C :: (w3 ++ l2 ++ w4 ++ 0x7D :: w5)) := by
      refine (expectByte_skipWs_eq_some (by decide)).mpr ⟨w0, hw0, ?_⟩
      rw [hp]
      simp only [List.append_assoc, List.cons_append, List.nil_append]
    have hm1 (q : List Byte) : parseMember k ⟨none, none⟩ (w1 ++ l1 ++ w2 ++ 0x2C :: q) = some (m, 0x2C :: q) :=
      hl1.parseMember_eq hwf hw1 hw2 (by decide) (by decide)
    have hm2 (q : List Byte) : parseMember k m (w3 ++ l2 ++ w4 ++ 0x7D :: q) = some (⟨some t, some d⟩, 0x7D :: q) :=
      hl2.parseMember_eq hwf hw3 hw4 (by decide) (by decide)
    have hend : skipWs w5 = [] := (skipWs_eq_iff rfl).mpr ⟨w5, hw5, (List.append_nil w5).symm⟩
    unfold decodeJson
    simp only [hopen, Option.bind_some, hm1, expectByte_cons, hm2, hend, if_true]
    exact Members.both_eq_some.mpr rfl

/-- The two orders of R175 as one object with a first and a second member. -/
theorem jsonPayload_iff {t : Byte} {d : List Byte} : JsonPayload k p t d ↔ ∃ m1 m2, ObjectText m1 m2 p ∧
    ((TypeMember k m1 t ∧ DataMember k m2 d) ∨ (DataMember k m1 d ∧ TypeMember k m2 t)) := by
  constructor
  · rintro ⟨mt, md, ht, hd, h | h⟩
    · exact ⟨mt, md, h, .inl ⟨ht, hd⟩⟩
    · exact ⟨md, mt, h, .inr ⟨hd, ht⟩⟩
  · rintro ⟨m1, m2, h, ⟨ht, hd⟩ | ⟨hd, ht⟩⟩
    · exact ⟨m1, m2, ht, hd, .inl h⟩
    · exact ⟨m2, m1, ht, hd, .inr h⟩

end Sys2Proof.Machine
end

section
/-! The payload decoder against its grammar (42_payload_decoder.md R171 to R194), and EVAL of a verified payload
(R189). -/

namespace Sys2Proof.Machine

/-- Settles O26: the procedure reads two members that fill both fields, the grammar asks for one member of each. -/
theorem jsonDecoderMeetsItsGrammar : Obligations.JsonDecoderMeetsItsGrammar := by
  unfold Obligations.JsonDecoderMeetsItsGrammar
  intro k p t d hwf
  simp only [decodeJson_eq_some hwf, jsonPayload_iff, readsMember_both_iff]

/-- Settles O27: `?` does not open an object. -/
theorem jsonDecodesEveryCanonicalPayload : Obligations.JsonDecodesEveryCanonicalPayload := by
  unfold Obligations.JsonDecodesEveryCanonicalPayload
  exact fun k hwf => ⟨decodeJson_canonEncode hwf, rfl⟩

/-- EVAL of a verified payload that does not parse (R189). -/
theorem evalStep_of_malformed {s : State} (hp : s.phase = .eval) (hcrc : s.frame.crcCalc = s.frame.csumReg)
    (hfit : s.FitsCapacity) (hd : payloadDecode s.params s.payloadBytes = none) :
    evalStep s = .next (s.raisePlain .malformedPayload) := by
  unfold evalStep decodeAndRoute
  rw [if_pos hp, if_pos hcrc, s.fitsCapacity_iff.mp hfit, if_neg Bool.false_ne_true, hd]

/-- Settles O23. -/
theorem unparsedPayloadIsMalformed : Obligations.UnparsedPayloadIsMalformed := by
  unfold Obligations.UnparsedPayloadIsMalformed
  rintro s ts _ hturn hp hcrc hfit rfl hd
  rw [step_of_turns hturn]
  exact evalStep_of_malformed (s := s.setTurns ts) hp hcrc hfit hd

/-- Settles O24: the operation of the discriminant writes the route that `classify` names. -/
theorem parsedPayloadBecomesTheMessage : Obligations.ParsedPayloadBecomesTheMessage := by
  unfold Obligations.ParsedPayloadBecomesTheMessage
  rintro s ts _ t d hturn hp hcrc hfit rfl hd
  rw [step_of_turns hturn]
  exact (evalStep_of_message (s := s.setTurns ts) hp hcrc hfit hd).trans (exec_disc t d _)

end Sys2Proof.Machine
end

section
/-! The router's operations, DELIVER and its hold (43_router.md R210 to R218). -/

namespace Sys2Proof.Machine

/-! ### A sink's turn that passes, a CTRL write without CLEAR, a source that is held -/

/-- Outside DELIVER, or with the message's port not ready, DELIVER is not enabled (R217). -/
theorem deliverStep_of_held {s : State} (h : s.phase ≠ .deliver ∨ s.sinkReadyOn s.msgRoute = false) :
    deliverStep s = .next s :=
  if_neg fun ⟨hp, hr⟩ => h.elim (absurd hp) fun hf => absurd (hf.symm.trans hr) Bool.false_ne_true

/-- A CTRL write without CLEAR writes EN, IE and perhaps the counters; no other field (R236, R239). -/
theorem State.writeCtrl_of_not_clear (s : State) {v : U32} (h : ctrlwClear v = false) : s.writeCtrl v = { s with
    ctrlEn := ctrlwEn v
    ctrlIe := ctrlwIe v
    cnt := if ctrlwCntClr v then Counters.zero else s.cnt } := by
  rw [State.writeCtrl_eq, h]
  cases ctrlwCntClr v <;> rfl

/-- Where `in_ready` is 0 no turn takes a symbol (R131). -/
theorem EnvMoves.stream_of_not_ready {s : State} {e : Env} (h : EnvMoves s e) (hr : s.inReady = false) :
    e.stream = s.env.stream := by
  obtain ⟨-, hstream | ⟨hready, -⟩⟩ := h
  · exact hstream
  · exact absurd (hr.symm.trans hready) Bool.false_ne_true

/-- In DELIVER with the message's port not ready, the host reaches CTRL, the counters and the CSR response; only CLEAR
and reset reach more of the block (R217, R218). -/
theorem StepEffect.held_cases {s t : State} {e : Env} (h : StepEffect s e t) (hp : s.phase = .deliver)
    (hready : s.sinkReadyOn s.msgRoute = false) :
    (∃ en ie c resp, t = { s with ctrlEn := en, ctrlIe := ie, cnt := c, csrResp := resp, env := e }) ∨
      (∃ r rs ts, s.env.turns = .host :: ts ∧ s.env.requests = r :: rs ∧
        decode (.csr r) = .csrWriteCtrl r.wdata ∧ ctrlwClear r.wdata = true) ∨
      ∃ l ts, s.env.turns = .rst l :: ts := by
  have hin : s.inReady = false := State.inReady_eq_false (.inr (.inr (.inr (.inl hp))))
  cases h with
  | idle | respond => exact .inl ⟨_, _, _, _, rfl⟩
  | lenByte _ hr | payloadByte _ _ hr | csumByte _ hr | streamEnd _ _ hr =>
    exact absurd (hin.symm.trans hr) Bool.false_ne_true
  | mismatch heval | malformed heval | message _ _ heval => cases hp.symm.trans heval
  | deliver _ _ _ hr => exact absurd (hready.symm.trans hr) Bool.false_ne_true
  | writeCtrl r rs ts _ hturn hreq hdec =>
    cases hclear : ctrlwClear r.wdata with
    | true => exact .inr (.inl ⟨r, rs, ts, hturn, hreq, hdec, hclear⟩)
    | false =>
      rw [State.writeCtrl_of_not_clear _ hclear]
      exact .inl ⟨_, _, _, _, rfl⟩
  | reset l ts hturn => exact .inr (.inr ⟨l, ts, hturn⟩)

/-! ### The statements about the router -/

/-- Settles O31: the block is held but for CLEAR and reset, which the hypotheses shut out, and the source is held
because DELIVER takes no input. -/
theorem backpressureHoldsTheBlock : Obligations.BackpressureHoldsTheBlock := by
  unfold Obligations.BackpressureHoldsTheBlock
  intro s t hp hready h hrst hclear
  obtain ⟨e, hmoves, heff⟩ := step_effect h
  have hin : s.inReady = false := State.inReady_eq_false (.inr (.inr (.inr (.inl hp))))
  rcases heff.held_cases hp hready with ⟨_, _, _, _, rfl⟩ | ⟨r, rs, ts, hturn, hreq, hdec, hset⟩ | ⟨l, ts, hturn⟩
  · exact ⟨hp, rfl, rfl, rfl, hmoves.stream_of_not_ready hin, hmoves.1⟩
  · have hnot : ctrlwClear r.wdata = false := hclear ts r rs r.wdata hturn hreq hdec
    exact absurd (hnot.symm.trans hset) Bool.false_ne_true
  · exact absurd hturn (hrst l ts)

/-- Settles O29: each arm of `exec` is `setRoute`, the last with its operand in `msg_type`. -/
theorem routeOperationsWriteTheRoute : Obligations.RouteOperationsWriteTheRoute := by
  unfold Obligations.RouteOperationsWriteTheRoute
  exact fun _ => ⟨rfl, rfl, rfl, fun _ => rfl⟩

/-- Settles O30: the sink's turn is DELIVER where it is enabled, and passes elsewhere. -/
theorem deliverHandsTheMessageOver : Obligations.DeliverHandsTheMessageOver := by
  unfold Obligations.DeliverHandsTheMessageOver
  intro s ts hturn
  have hstep : step s = deliverStep (s.setTurns ts) := step_of_turns hturn
  rw [hstep]
  refine ⟨fun hp hready => ?_, fun hheld => deliverStep_of_held (s := s.setTurns ts) hheld⟩
  rw [deliverStep_of_ready (s := s.setTurns ts) hp hready, State.deliver_eq]
  rfl

end Sys2Proof.Machine
end

section
/-! PAYLOAD_CAPACITY = UNBOUNDED (44_host_csr.md R249, 60_exceptions.md R262): no operation raises
LENGTH_EXCEEDS_CAPACITY, so no step counts or records it. -/

namespace Sys2Proof.Machine

/-- LENGTH_EXCEEDS_CAPACITY was neither counted nor recorded. -/
def State.NoOversize (s : State) : Prop :=
  s.cnt.oversize = 0 ∧ s.err.code ≠ .lengthExceedsCapacity

theorem State.overCapacity_of_unbounded {s : State} (h : s.params.capacity = none) : s.overCapacity = false :=
  s.fitsCapacity_iff.mp fun _ hc => nomatch h.symm.trans hc

/-- An error other than LENGTH_EXCEEDS_CAPACITY has another counter and another code (R270). -/
theorem State.NoOversize.raise {s : State} (h : s.NoOversize) {e : ErrCode} (he : e ≠ .lengthExceedsCapacity)
    (seg : Segment) (boundary : Bool) : (s.raise e seg boundary).NoOversize := by
  refine ⟨?_, he⟩
  cases e with
  | lengthExceedsCapacity => exact absurd rfl he
  | noError | incompleteFrame | checksumMismatch | malformedPayload => exact h.1

/-- Without a capacity a length byte raises nothing (R122). -/
theorem byteLen_noOversize {s : State} (b : Byte) (hcap : s.params.capacity = none) (h : s.NoOversize) :
    (byteLen b s).NoOversize := by
  have hov : (s.acceptLen b).overCapacity = false := State.overCapacity_of_unbounded hcap
  rcases byteLen_cases b s with ⟨-, heq⟩ | ⟨-, heq⟩ <;> rw [heq]
  · exact h
  · rw [State.lengthComplete_eq, hov]
    exact h

/-- A CTRL write leaves the record and the counters as they are or clears them (R238, R239). -/
theorem State.NoOversize.writeCtrl {s : State} (h : s.NoOversize) (v : U32) : (s.writeCtrl v).NoOversize := by
  obtain ⟨hcnt, hcode⟩ := h
  rw [State.writeCtrl_eq]
  cases ctrlwClear v <;> cases ctrlwCntClr v
  · exact ⟨hcnt, hcode⟩
  · exact ⟨rfl, hcode⟩
  · exact ⟨hcnt, nofun⟩
  · exact ⟨rfl, nofun⟩

/-- No effect of a step counts or records LENGTH_EXCEEDS_CAPACITY where there is no capacity. -/
theorem StepEffect.noOversize {s t : State} {e : Env} (heff : StepEffect s e t) (hcap : s.params.capacity = none)
    (h : s.NoOversize) : t.NoOversize := by
  have henv : (s.setEnv e).NoOversize := h
  cases heff with
  | idle | message | deliver | respond => exact h
  | lenByte b => exact byteLen_noOversize b hcap henv
  | payloadByte b _ _ _ ht =>
    obtain ⟨_, rfl⟩ := bytePayload_eq ht
    exact h
  | csumByte b =>
    obtain ⟨_, heq⟩ := byteCsum_eq b (s.setEnv e)
    rw [heq]
    exact h
  | streamEnd | mismatch | malformed => exact henv.raise (by decide) _ _
  | writeCtrl r => exact henv.writeCtrl r.wdata
  | reset => exact ⟨rfl, nofun⟩

/-- Settles O50. -/
theorem unboundedNeverExceedsCapacity : Obligations.UnboundedNeverExceedsCapacity := by
  unfold Obligations.UnboundedNeverExceedsCapacity
  intro s t hcap hcnt hcode hstep
  obtain ⟨_, -, heff⟩ := step_effect hstep
  exact heff.noOversize hcap ⟨hcnt, hcode⟩

end Sys2Proof.Machine
end

section
/-! The host's CSR operations (44_host_csr.md R230 to R249): what a legal read, a CTRL write and a bad request answer,
and the fields of the words that a read shows. -/

namespace Sys2Proof.Machine

/-! ### An access while `rst` is 0 -/

/-- While `rst` is 0 every access is answered (R230). -/
theorem csrAccess_of_running {s : State} (h : s.rst = false) (answered : State) :
    csrAccess s answered = .next answered :=
  if_neg (h ▸ Bool.false_ne_true)

/-- While `rst` is 0 a read answers its value and changes nothing else (R230, 20_memory.md R81). -/
theorem csrRead_of_running {s : State} (h : s.rst = false) (v : U32) :
    csrRead v s = .next { s with csrResp := some ⟨false, some v⟩ } :=
  csrAccess_of_running h _

/-- A read of size 4 at a mapped offset selects the register's operation, whatever its data word (R95). -/
theorem decode_read (off : Byte) {i : Instr} (h : decodeRead off = some i) (w : U32) :
    decode (.csr (csrRequest false off 4 w)) = i := by
  rw [decode_csrRequest, h]
  rfl

/-- While `rst` is 0, `in_ready` is EN in an accepting phase (10_state.md R37). -/
theorem State.inReady_of_running {s : State} (h : s.rst = false) :
    s.inReady = (s.ctrlEn && (s.phase == .len || s.phase == .payload || s.phase == .csum)) := by
  unfold State.inReady
  rw [h]
  cases s.phase <;> rfl

/-- A CTRL write field by field (R236, R238, R239). -/
theorem State.writeCtrl_fields (s : State) (v : U32) : s.writeCtrl v = { s with
    ctrlEn := ctrlwEn v
    ctrlIe := ctrlwIe v
    phase := if ctrlwClear v then .len else s.phase
    frame := if ctrlwClear v then FrameRegs.init else s.frame
    err := if ctrlwClear v then ErrRecord.clear else s.err
    msgData := if ctrlwClear v then [] else s.msgData
    cnt := if ctrlwCntClr v then Counters.zero else s.cnt } := by
  rw [State.writeCtrl_eq]
  cases ctrlwClear v <;> cases ctrlwCntClr v <;> rfl

/-! ### The fields of a word (10_state.md R43, R44, R49) -/

section
variable {v w start len i : Nat} {hi : BitVec v} {lo : BitVec w}

/-- The lowest field of a concatenation. -/
theorem extractLsb'_append_zero : (hi ++ lo).extractLsb' 0 w = lo := by
  rw [BitVec.extractLsb'_append_eq_of_add_le (Nat.zero_add w).le, BitVec.extractLsb'_eq_self]

/-- A higher field of a concatenation is a field of its high part. -/
theorem extractLsb'_append_add {f : BitVec len} (h : hi.extractLsb' start len = f) :
    (hi ++ lo).extractLsb' (start + w) len = f := by
  rw [BitVec.extractLsb'_append_eq_of_le (Nat.le_add_left w start), Nat.add_sub_cancel, h]

/-- A bit is a field of one bit. -/
theorem getLsbD_of_extractLsb' {x : BitVec v} {b : Bool} (h : x.extractLsb' i 1 = BitVec.ofBool b) :
    x.getLsbD i = b := by
  have hbit : (x.extractLsb' i 1).getLsbD 0 = (BitVec.ofBool b).getLsbD 0 := congrArg (·.getLsbD 0) h
  simpa using hbit

end

theorem State.ctrlWord_fields (s : State) :
    s.ctrlWord.getLsbD 0 = s.ctrlEn ∧ s.ctrlWord.getLsbD 1 = s.ctrlIe ∧ s.ctrlWord.extractLsb' 2 30 = 0 :=
  ⟨getLsbD_of_extractLsb' extractLsb'_append_zero,
    getLsbD_of_extractLsb' (extractLsb'_append_add extractLsb'_append_zero),
    extractLsb'_append_add (extractLsb'_append_add BitVec.extractLsb'_eq_self)⟩

theorem State.msgInfoWord_fields (s : State) :
    s.msgInfoWord.extractLsb' 0 8 = s.msgType ∧ s.msgInfoWord.extractLsb' 8 2 = s.msgRoute.bits
      ∧ s.msgInfoWord.extractLsb' 10 22 = 0 :=
  ⟨extractLsb'_append_zero, extractLsb'_append_add extractLsb'_append_zero,
    extractLsb'_append_add (extractLsb'_append_add BitVec.extractLsb'_eq_self)⟩

/-- Each field is reached by passing the ones below it; the highest is what is left above all of them. -/
theorem State.statusWord_fields (s : State) :
    s.statusWord.extractLsb' 0 3 = s.phase.bits ∧ s.statusWord.getLsbD 3 = false
      ∧ s.statusWord.extractLsb' 4 3 = s.err.code.bits ∧ s.statusWord.getLsbD 7 = false
      ∧ s.statusWord.extractLsb' 8 2 = s.err.seg.bits ∧ s.statusWord.getLsbD 10 = s.err.boundary
      ∧ s.statusWord.getLsbD 11 = s.irq
      ∧ s.statusWord.extractLsb' 12 4 = s.frame.lenCnt ∧ s.statusWord.extractLsb' 16 3 = s.frame.csumCnt
      ∧ s.statusWord.getLsbD 19 = s.inReady
      ∧ s.statusWord.extractLsb' 20 12 = 0 := by
  unfold State.statusWord
  refine ⟨?phase, getLsbD_of_extractLsb' ?bit3, ?code, getLsbD_of_extractLsb' ?bit7, ?seg,
    getLsbD_of_extractLsb' ?boundary, getLsbD_of_extractLsb' ?irq, ?lenCnt, ?csumCnt,
    getLsbD_of_extractLsb' ?inReady, ?above⟩
  case above =>
    repeat refine extractLsb'_append_add ?_
    exact BitVec.extractLsb'_eq_self
  all_goals
    repeat refine extractLsb'_append_add ?_
    exact extractLsb'_append_zero

/-! ### The statements about reads -/

/-- Settles O35. -/
theorem ctrlReadShowsEnables : Obligations.CtrlReadShowsEnables := by
  unfold Obligations.CtrlReadShowsEnables
  intro s w hrst
  exact ⟨decode_read 0x00 rfl w, s.ctrlWord, csrRead_of_running hrst _, s.ctrlWord_fields⟩

/-- Settles O36: while `rst` is 0 bit 19 is EN in an accepting phase. -/
theorem statusReadShowsFields : Obligations.StatusReadShowsFields := by
  unfold Obligations.StatusReadShowsFields
  intro s w hrst
  rw [← State.inReady_of_running hrst]
  exact ⟨decode_read 0x04 rfl w, s.statusWord, csrRead_of_running hrst _, s.statusWord_fields⟩

/-- Settles O38. -/
theorem lengthReads : Obligations.LengthReads := by
  unfold Obligations.LengthReads
  intro s w hrst
  exact ⟨decode_read 0x08 rfl w, csrRead_of_running hrst _, decode_read 0x0C rfl w, csrRead_of_running hrst _⟩

/-- Settles O37. -/
theorem payloadCountReads : Obligations.PayloadCountReads := by
  unfold Obligations.PayloadCountReads
  intro s w hrst
  exact ⟨decode_read 0x10 rfl w, csrRead_of_running hrst _, decode_read 0x14 rfl w, csrRead_of_running hrst _⟩

/-- Settles O39. -/
theorem checksumReads : Obligations.ChecksumReads := by
  unfold Obligations.ChecksumReads
  intro s w hrst
  exact ⟨decode_read 0x18 rfl w, csrRead_of_running hrst _, decode_read 0x1C rfl w, csrRead_of_running hrst _⟩

/-- Settles O40. -/
theorem messageInfoRead : Obligations.MessageInfoRead := by
  unfold Obligations.MessageInfoRead
  intro s w hrst
  exact ⟨decode_read 0x20 rfl w, s.msgInfoWord, csrRead_of_running hrst _, s.msgInfoWord_fields⟩

/-- Settles O41. -/
theorem counterReads : Obligations.CounterReads := by
  unfold Obligations.CounterReads
  intro s w hrst
  exact ⟨decode_read 0x24 rfl w, csrRead_of_running hrst _, decode_read 0x28 rfl w, csrRead_of_running hrst _,
    decode_read 0x2C rfl w, csrRead_of_running hrst _, decode_read 0x30 rfl w, csrRead_of_running hrst _,
    decode_read 0x34 rfl w, csrRead_of_running hrst _⟩

/-! ### The statements about CTRL writes and bad requests -/

/-- Settles O42. -/
theorem ctrlWriteActs : Obligations.CtrlWriteActs := by
  unfold Obligations.CtrlWriteActs
  intro s v hrst
  calc exec (.csrWriteCtrl v) s
      = .next ((s.writeCtrl v).respond ⟨false, none⟩) := csrAccess_of_running hrst _
    _ = _ := by
      rw [State.writeCtrl_fields]
      rfl

/-- Settles O44. -/
theorem illegalRequestChangesNoState : Obligations.IllegalRequestChangesNoState := by
  unfold Obligations.IllegalRequestChangesNoState
  intro s we off size hrst _
  exact csrAccess_of_running hrst _

/-- Settles O46: under reset nothing is taken and the write waits; else EN is 0 after it. -/
theorem pauseKeepsTheFrame : Obligations.PauseKeepsTheFrame := by
  unfold Obligations.PauseKeepsTheFrame
  intro s t v hen hclear h
  rcases csrAccess_next h with ⟨hrst, rfl⟩ | ⟨-, rfl⟩
  · exact ⟨State.inReady_eq_false (.inl hrst), rfl, rfl, rfl, rfl⟩
  · rw [State.writeCtrl_of_not_clear s hclear]
    exact ⟨State.inReady_eq_false (.inr (.inl hen)), rfl, rfl, rfl, rfl⟩

end Sys2Proof.Machine
end

section
/-! Error entry, the hold in phase ERROR and progress (60_exceptions.md R265 to R274). -/

namespace Sys2Proof.Machine

/-! ### Error entry (R268, R270) -/

/-- Error entry counts no delivered message (R270). -/
@[simp] theorem Counters.count_ok (c : Counters) (e : ErrCode) : (c.count e).ok = c.ok := by
  cases e <;> rfl

/-- A length byte enters ERROR only by LENGTH_EXCEEDS_CAPACITY (R122). -/
theorem byteLen_raises {b : Byte} {s : State} (hs : s.phase ≠ .error) (h : (byteLen b s).phase = .error) :
    byteLen b s = (s.acceptLen b).raisePlain .lengthExceedsCapacity := by
  rcases byteLen_cases b s with ⟨-, heq⟩ | ⟨-, heq⟩
  · rw [heq] at h
    exact absurd h hs
  · rw [heq, State.lengthComplete_eq] at h ⊢
    by_cases hov : (s.acceptLen b).overCapacity = true
    · exact if_pos hov
    · rw [if_neg hov, State.setPhase_phase] at h
      split at h <;> cases h

/-- ERROR is entered by raising one error, on the registers that an accepted length byte may have changed (R270). -/
theorem StepEffect.raises {s t : State} {e : Env} (heff : StepEffect s e t) (hs : s.phase ≠ .error)
    (ht : t.phase = .error) :
    ∃ f c seg bd, t = ({ s with frame := f, env := e } : State).raise c seg bd ∧ c ≠ .noError := by
  cases heff with
  | idle | respond => exact absurd ht hs
  | lenByte b => exact ⟨_, _, _, _, byteLen_raises (s := s.setEnv e) hs ht, nofun⟩
  | payloadByte b _ _ _ hb =>
    obtain ⟨-, ⟨-, rfl⟩ | ⟨-, rfl⟩⟩ := bytePayload_next hb
    · cases ht
    · exact absurd ht hs
  | csumByte b =>
    rcases byteCsum_cases b (s.setEnv e) with ⟨-, heq⟩ | ⟨-, heq⟩ <;> rw [heq] at ht
    · exact absurd ht hs
    · cases ht
  | streamEnd | mismatch | malformed => exact ⟨_, _, _, _, rfl, nofun⟩
  | message | deliver | reset => cases ht
  | writeCtrl r =>
    obtain ⟨_, _, _, heq | heq⟩ := (s.setEnv e).writeCtrl_cases r.wdata <;> rw [heq] at ht
    · exact absurd ht hs
    · cases ht

/-- A turn takes at most one symbol from the source (10_state.md R51). -/
theorem EnvMoves.stream_length_le {s : State} {e : Env} (h : EnvMoves s e) :
    s.env.stream.length ≤ e.stream.length + 1 := by
  obtain ⟨-, hstream | ⟨-, w, hstream⟩⟩ := h
  · rw [hstream]
    exact Nat.le_succ _
  · rw [hstream, List.length_cons]

/-- Settles O47: the step is one `raise`, which writes the record, one counter and the phase. -/
theorem errorEntryCountsOneError : Obligations.ErrorEntryCountsOneError := by
  unfold Obligations.ErrorEntryCountsOneError
  intro s t h hs ht
  obtain ⟨e, hmoves, heff⟩ := step_effect h
  obtain ⟨f, c, seg, bd, rfl, hc⟩ := heff.raises hs ht
  exact ⟨hc, rfl, Counters.count_ok _ _, rfl, rfl, rfl, rfl, rfl, hmoves.1, hmoves.stream_length_le⟩

/-! ### Phase ERROR (R273, R274) -/

/-- In ERROR no symbol is taken (10_state.md R37). -/
theorem State.inReady_of_error {s : State} (hp : s.phase = .error) : s.inReady = false :=
  State.inReady_eq_false (.inr (.inr (.inr (.inr hp))))

/-- In ERROR an access may change the CSR response; only a CTRL write and reset reach the rest of the block (R273). -/
theorem StepEffect.error_cases {s t : State} {e : Env} (heff : StepEffect s e t) (hp : s.phase = .error) :
    (∃ resp, t = { s with csrResp := resp, env := e }) ∨
      (∃ r rs ts, s.env.turns = .host :: ts ∧ s.env.requests = r :: rs ∧
        decode (.csr r) = .csrWriteCtrl r.wdata) ∨
      ∃ l ts, s.env.turns = .rst l :: ts := by
  cases heff with
  | idle | respond => exact .inl ⟨_, rfl⟩
  | lenByte _ hr | payloadByte _ _ hr | csumByte _ hr | streamEnd _ _ hr =>
    exact absurd ((State.inReady_of_error hp).symm.trans hr) Bool.false_ne_true
  | mismatch hq | malformed hq | message _ _ hq | deliver _ _ hq => cases hp.symm.trans hq
  | writeCtrl r rs ts _ hturn hreq hdec => exact .inr (.inl ⟨r, rs, ts, hturn, hreq, hdec⟩)
  | reset l ts hturn => exact .inr (.inr ⟨l, ts, hturn⟩)

/-- Settles O48: the hypotheses shut out the CTRL write and reset, and the source is held because ERROR takes no
input. -/
theorem errorIsSticky : Obligations.ErrorIsSticky := by
  unfold Obligations.ErrorIsSticky
  intro s t hp h hwrite hrst
  obtain ⟨e, hmoves, heff⟩ := step_effect h
  rcases heff.error_cases hp with ⟨_, rfl⟩ | ⟨r, rs, ts, hturn, hreq, hdec⟩ | ⟨l, ts, hturn⟩
  · exact ⟨rfl, hmoves.stream_of_not_ready (State.inReady_of_error hp), hmoves.1⟩
  · exact absurd hdec (hwrite ts r rs r.wdata hturn hreq)
  · exact absurd hturn (hrst l ts)

/-! ### Progress (R265) -/

/-- In PAYLOAD the next index is one PBUF has, as `pay_cnt` < `len_reg` ≤ PAYLOAD_CAPACITY (R25, R39). -/
theorem State.PhaseInv.pbufIndex_payCnt {s : State} (h : s.PhaseInv) (hp : s.phase = .payload) :
    s.pbufIndex s.frame.payCnt.toNat = true := by
  obtain ⟨-, ⟨-, hlt, -⟩, hfit⟩ := (State.phaseInv_payload hp).mp h
  exact (s.pbufIndex_iff _).mpr fun c hc => Nat.lt_of_lt_of_le (BitVec.lt_def.mp hlt) (hfit c hc)

theorem State.PhaseInv.execInByte_answers {s : State} (h : s.PhaseInv) (hr : s.inReady = true) (b : Byte) :
    ∃ t, execInByte b s = .next t := by
  obtain ⟨-, -, hp | hp | hp⟩ := s.inReady_iff.mp hr
  · exact ⟨_, execInByte_len b hr hp⟩
  · exact ⟨_, (execInByte_payload b hr hp).trans (bytePayload_of_index hp (h.pbufIndex_payCnt hp))⟩
  · exact ⟨_, execInByte_csum b hr hp⟩

/-- The source's turn faults in no phase. -/
theorem State.PhaseInv.sourceTurn_answers {s : State} (h : s.PhaseInv) : ∃ t, sourceTurn s = .next t := by
  cases hr : s.inReady with
  | false => exact ⟨s, sourceTurn_of_not_ready hr⟩
  | true =>
    cases hstream : s.env.stream with
    | nil => exact ⟨s, by unfold sourceTurn; rw [hstream]⟩
    | cons w ws =>
      rw [sourceTurn_of_ready hstream hr, exec_sym]
      split
      · exact ⟨_, execInEnd_of_ready (s := s.setStream ws) hr⟩
      · exact State.PhaseInv.execInByte_answers (s := s.setStream ws) h hr _

/-- A frame that waits for EVAL fits PBUF, so EVAL completes (R39). -/
theorem State.PhaseInv.evalStep_answers {s : State} (h : s.PhaseInv) : ∃ t, evalStep s = .next t := by
  by_cases hp : s.phase = .eval
  · obtain ⟨-, -, hfit⟩ := (State.phaseInv_eval hp).mp h
    rcases evalStep_of_fits hp hfit with ⟨_, heq⟩ | ⟨_, _, heq⟩ <;> exact ⟨_, heq⟩
  · exact ⟨s, if_neg hp⟩

theorem csrAccess_answers (s answered : State) : ∃ t, csrAccess s answered = .next t := by
  unfold csrAccess
  split <;> exact ⟨_, rfl⟩

/-- A request is answered or waits, whatever it is (R230, R233, R290). -/
theorem hostTurn_answers (s : State) : ∃ t, hostTurn s = .next t := by
  unfold hostTurn
  split
  · exact ⟨s, rfl⟩
  · rename_i r rs _
    rcases exec_csr r (if s.rst then s else s.setRequests rs) with ⟨_, heq⟩ | heq | ⟨_, _, _, heq⟩ <;>
      rw [heq] <;> exact csrAccess_answers _ _

theorem deliverStep_answers (s : State) : ∃ t, deliverStep s = .next t := by
  unfold deliverStep
  split <;> exact ⟨_, rfl⟩

theorem resetTurn_answers (level : Bool) (s : State) : ∃ t, resetTurn level s = .next t := by
  unfold resetTurn
  split <;> exact ⟨_, rfl⟩

/-- Under the invariants of R39 every turn of every agent answers a next state. -/
theorem State.PhaseInv.runTurn_answers {s : State} (h : s.PhaseInv) (u : Turn) : ∃ t, runTurn u s = .next t := by
  cases u with
  | source => exact h.sourceTurn_answers
  | block => exact h.evalStep_answers
  | sink => exact deliverStep_answers s
  | host => exact hostTurn_answers s
  | ready lines => exact ⟨_, rfl⟩
  | rst level => exact resetTurn_answers level s

/-- Settles O55: a step is one turn, and the agents' side does not enter the invariant. -/
theorem invariantStatesStepOn : Obligations.InvariantStatesStepOn := by
  unfold Obligations.InvariantStatesStepOn State.StepsOn
  intro s hi
  rcases step_eq s with ⟨-, heq⟩ | ⟨u, ts, -, heq⟩ <;> rw [heq]
  · exact hi.phase.runTurn_answers .block
  · exact State.PhaseInv.runTurn_answers (s := s.setTurns ts) hi.phase u

end Sys2Proof.Machine
end

section
/-! Reset (70_reset_and_hazards.md R290): what both edges of `rst` write, and that nothing else reaches the block
while `rst` is 1. -/

namespace Sys2Proof.Machine

/-! ### Each agent's turn under reset -/

/-- While `rst` is 1 no access is answered. -/
theorem csrAccess_of_reset {s : State} (h : s.rst = true) (answered : State) : csrAccess s answered = .next s :=
  if_pos h

/-- While `rst` is 1 the host's turn passes, whatever it asks for; the request stays with the host (log 6). -/
theorem hostTurn_of_reset {s : State} (h : s.rst = true) : hostTurn s = .next s := by
  unfold hostTurn
  cases s.env.requests with
  | nil => rfl
  | cons r rs =>
    simp only [h, if_true]
    rcases exec_csr r s with ⟨_, heq⟩ | heq | ⟨_, _, _, heq⟩ <;> rw [heq] <;> exact csrAccess_of_reset h _

/-- The two edges of `rst` put the block at its reset values (log 9). -/
theorem resetTurn_of_edge {level : Bool} {s : State} (h : level = true ∨ s.rst = true) :
    resetTurn level s = .next (s.blockReset level) :=
  if_pos (Bool.or_eq_true_iff.mpr h)

theorem State.ResetHeld.rst_eq {s : State} (h : s.ResetHeld) : s.rst = true := by
  unfold State.ResetHeld at h
  rw [h]

/-- Under reset a turn of an agent other than one of `rst` moves at most the sink's ready lines: the source and the
host are held, and in phase LEN neither EVAL nor DELIVER is enabled. -/
theorem State.ResetHeld.runTurn_eq {s : State} (h : s.ResetHeld) {u : Turn} (hu : ∀ level, u ≠ .rst level) :
    ∃ lines, runTurn u s = .next (s.setReady lines) := by
  have heval : s.phase ≠ .eval := by simp [h.phase_eq]
  have hdeliver : s.phase ≠ .deliver := by simp [h.phase_eq]
  cases u with
  | source => exact ⟨s.env.sinkReady, sourceTurn_of_not_ready (State.inReady_eq_false (.inl h.rst_eq))⟩
  | block => exact ⟨s.env.sinkReady, if_neg heval⟩
  | sink => exact ⟨s.env.sinkReady, deliverStep_of_held (.inl hdeliver)⟩
  | host => exact ⟨s.env.sinkReady, hostTurn_of_reset h.rst_eq⟩
  | ready lines => exact ⟨lines, rfl⟩
  | rst level => exact absurd rfl (hu level)

/-- The hold under reset does not see the agents' side. -/
theorem State.ResetHeld.setTurns {s : State} (h : s.ResetHeld) (ts : List Turn) : (s.setTurns ts).ResetHeld :=
  congrArg (State.setTurns · ts) h

/-! ### The statements about reset -/

/-- Settles O59: the step is one turn, the block's where none is named, and such a turn reaches the sink's ready lines
only. -/
theorem resetHoldsTheBlock : Obligations.ResetHoldsTheBlock := by
  unfold Obligations.ResetHoldsTheBlock
  intro s t hheld h hrst
  rcases step_eq s with ⟨-, hstep⟩ | ⟨u, ts, hturn, hstep⟩
  · obtain ⟨lines, heq⟩ := hheld.runTurn_eq (u := .block) nofun
    obtain rfl : s.setReady lines = t := Host.Outcome.next.inj (heq.symm.trans (hstep.symm.trans h))
    exact ⟨rfl, rfl, rfl, rfl⟩
  · have hu : ∀ level, u ≠ .rst level := fun level hl => hrst level ts (hl ▸ hturn)
    obtain ⟨lines, heq⟩ := (hheld.setTurns ts).runTurn_eq hu
    obtain rfl : (s.setTurns ts).setReady lines = t := Host.Outcome.next.inj (heq.symm.trans (hstep.symm.trans h))
    exact ⟨rfl, rfl, rfl, rfl⟩

/-- Settles O45: the host's turn is over, and nothing else has changed. -/
theorem requestUnderResetIsNotAnswered : Obligations.RequestUnderResetIsNotAnswered := by
  unfold Obligations.RequestUnderResetIsNotAnswered
  intro s r rs ts hrst hturn _
  rw [step_of_turns hturn]
  exact hostTurn_of_reset (s := s.setTurns ts) hrst

/-- Settles O52: both edges are `State.blockReset`, which draws the next number of the free value. -/
theorem resetTurnRestoresResetValues : Obligations.ResetTurnRestoresResetValues := by
  unfold Obligations.ResetTurnRestoresResetValues
  intro s ts
  refine ⟨fun hturn => ⟨s.pbufEpoch + 1, ?_⟩, fun hturn hrst => ⟨s.pbufEpoch + 1, ?_⟩⟩ <;> rw [step_of_turns hturn]
  · exact resetTurn_of_edge (s := s.setTurns ts) (.inl rfl)
  · exact resetTurn_of_edge (s := s.setTurns ts) (.inr hrst)

end Sys2Proof.Machine
end
